-- ==== Sys2Proof/Word.lean ====
section
/-! DEFINITION. The widths of the spec's quantities (00_scope.md R12, 20_memory.md R50). -/

namespace Sys2Proof

/-- A request word, `req[15:0]` (30_encoding.md R60). -/
abbrev Word := BitVec 16

/-- A byte sent over the bus: an instruction or a character code (R12). -/
abbrev Byte := BitVec 8

/-- Four bits: one FOUR-mode transaction, or a raw startup pattern (R17, R50). -/
abbrev Nibble := BitVec 4

/-- A display row, 0 or 1 (10_state.md R23). -/
abbrev Row := BitVec 1

/-- A display column, 0 to 15 (10_state.md R24). -/
abbrev Column := BitVec 4

/-- A DDRAM address of the controller, 7 bits (20_memory.md R40). -/
abbrev Address := BitVec 7

end Sys2Proof
end

