-- ==== Sys2Proof/Config.lean ====
section
/-! DEFINITION. The output lines and the implementation parameters (00_scope.md R9). The parameters are
free: `State` carries them in its field `cfg`, no request changes them (10_state.md R29), and every
statement holds for each value of them (log 5). -/

namespace Sys2Proof

/-- The level of a line, {0,1}: `false` is 0 (low), `true` is 1 (high). -/
abbrev Level := Bool

/-- The 11 output lines (10_state.md R25). -/
inductive Line where
  | rs | rw | e | d7 | d6 | d5 | d4 | d3 | d2 | d1 | d0
  deriving DecidableEq, Repr

/-- A level for each of the 11 lines (R25). -/
structure Levels where
  rs : Level
  rw : Level
  e  : Level
  d7 : Level
  d6 : Level
  d5 : Level
  d4 : Level
  d3 : Level
  d2 : Level
  d1 : Level
  d0 : Level
  deriving DecidableEq, Repr

/-- The parameters the block's rules do not fix (00_scope.md R9). `tSettle` counts time units of no
stated size (log 8). The pair `initCursorRow`, `initCursorColumn` is the draw `P_INIT_CURSOR`, fixed for
the run (92_eei_decisions.md D9). -/
structure Config where
  tSettle : Nat
  lineResetLevel : Levels
  initCursorRow : Row
  initCursorColumn : Column
  cmdClear : Byte
  cmdShiftRight : Byte
  cmdShiftLeft : Byte
  cmdCursorOn : Byte
  cmdCursorOff : Byte
  space : Byte
  deriving DecidableEq, Repr

/-- All 11 lines low. -/
def Levels.allLow : Levels :=
  { rs := false, rw := false, e := false, d7 := false, d6 := false, d5 := false, d4 := false,
    d3 := false, d2 := false, d1 := false, d0 := false }

/-- The column "vector value" of R9's table; its symbolic `T` is taken as 1 unit.
DESIGN CHOICE for `State.reset` only (unsafe, log 5 to 8): no statement rests on these values. -/
def Config.vectorValues : Config where
  tSettle := 1
  lineResetLevel := Levels.allLow
  initCursorRow := 0
  initCursorColumn := 0
  cmdClear := 0x01
  cmdShiftRight := 0x14
  cmdShiftLeft := 0x10
  cmdCursorOn := 0x0F
  cmdCursorOff := 0x0C
  space := 0x20

end Sys2Proof
end

