-- ==== Sys2Proof/Syntax.lean ====
section
/-! DEFINITION. The requests (spec/opcode_table.json, 30_encoding.md R62) and the assembler's lines (R70). -/

namespace Sys2Proof

/-- The data-bus width (00_scope.md R4). -/
inductive BusWidth where
  | four
  | eight
  deriving DecidableEq, Repr

/-- One constructor per row of the opcode table, in its order. Every field has exactly the width of its
encoding field (30_encoding.md R63), so an out-of-range row or column cannot be written. -/
inductive Instr where
  /-- op 0x0, `W`: R104. -/
  | init (width : BusWidth)
  /-- op 0x1, `BYTE`: R85. -/
  | transmit (byte : Byte)
  /-- op 0x2, `RS`, `RW`, `BYTE`: R100. -/
  | sendCommand (rs rw : Level) (byte : Byte)
  /-- op 0x3, `R`, `C`: R120. -/
  | setCursor (row : Row) (column : Column)
  /-- op 0x4, `BYTE`: R122. -/
  | writeChar (byte : Byte)
  /-- op 0x5: R126. -/
  | clearScreen
  /-- op 0x6, `R`, `C`: R128. -/
  | clearChar (row : Row) (column : Column)
  /-- op 0x7, `R`: R130. -/
  | clearRow (row : Row)
  /-- op 0x8, `R`, `B`, `E`: R133. -/
  | clearSection (row : Row) (first last : Column)
  /-- op 0x9: R138. -/
  | backspace
  /-- op 0xA: R141. -/
  | shiftCursorRight
  /-- op 0xB: R143. -/
  | shiftCursorLeft
  /-- op 0xC: R145. -/
  | enableCursor
  /-- op 0xD: R147. -/
  | disableCursor
  deriving DecidableEq, Repr

/-- One line of assembler (30_encoding.md R70). Its operands are numbers of any size: those that do not fit
their field are refused by `AsmLine.wellFormed`. `writeString` is the pseudo-request of R72, over the
codes of its characters. -/
inductive AsmLine where
  | init (width : BusWidth)
  | transmit (byte : Nat)
  | sendCommand (rs rw byte : Nat)
  | setCursor (row column : Nat)
  | writeChar (byte : Nat)
  | clearScreen
  | clearChar (row column : Nat)
  | clearRow (row : Nat)
  | clearSection (row first last : Nat)
  | backspace
  | shiftCursorRight
  | shiftCursorLeft
  | enableCursor
  | disableCursor
  | writeString (codes : List Nat)
  deriving DecidableEq, Repr

end Sys2Proof
end

