-- ==== Sys2Proof/WellFormed.lean ====
section
/-! DEFINITION. Which written forms are refused: an assembler operand that does not fit its field
(30_encoding.md R70), and a parameter outside its legal values (00_scope.md R9). An `Instr` has only fields
of the encoding's own widths (R63), so every term of it is well formed: `Instr.wellFormed` asks the
assembler's check of the line that stands for it. -/

namespace Sys2Proof

/-- A row operand fits: R70 refuses "a row above 1". -/
def rowFits (n : Nat) : Bool := decide (n ≤ 1)

/-- A column, begin or end operand fits: R70 refuses one "above 15". -/
def columnFits (n : Nat) : Bool := decide (n ≤ 15)

/-- A byte operand fits: R70 refuses "a byte above 0xFF". -/
def byteFits (n : Nat) : Bool := decide (n ≤ 0xFF)

/-- An rs or rw operand fits: R70 refuses "rs or rw above 1". -/
def levelFits (n : Nat) : Bool := decide (n ≤ 1)

/-- The assembler's check of a line (R70). A section with begin > end passes: it is encoded as written. -/
def AsmLine.wellFormed : AsmLine → Bool
  | .init _ => true
  | .transmit b => byteFits b
  | .sendCommand rs rw b => levelFits rs && levelFits rw && byteFits b
  | .setCursor r c => rowFits r && columnFits c
  | .writeChar b => byteFits b
  | .clearScreen => true
  | .clearChar r c => rowFits r && columnFits c
  | .clearRow r => rowFits r
  | .clearSection r g e => rowFits r && columnFits g && columnFits e
  | .backspace => true
  | .shiftCursorRight => true
  | .shiftCursorLeft => true
  | .enableCursor => true
  | .disableCursor => true
  | .writeString codes => codes.all byteFits

/-- The assembler line of a request (R70, R71). -/
def Instr.toLine : Instr → AsmLine
  | .init w => .init w
  | .transmit b => .transmit b.toNat
  | .sendCommand rs rw b => .sendCommand rs.toNat rw.toNat b.toNat
  | .setCursor r c => .setCursor r.toNat c.toNat
  | .writeChar b => .writeChar b.toNat
  | .clearScreen => .clearScreen
  | .clearChar r c => .clearChar r.toNat c.toNat
  | .clearRow r => .clearRow r.toNat
  | .clearSection r g e => .clearSection r.toNat g.toNat e.toNat
  | .backspace => .backspace
  | .shiftCursorRight => .shiftCursorRight
  | .shiftCursorLeft => .shiftCursorLeft
  | .enableCursor => .enableCursor
  | .disableCursor => .disableCursor

/-- A request whose operands fit their fields. -/
def Instr.wellFormed (i : Instr) : Bool := i.toLine.wellFormed

/-- Legal parameters: R9 allows "any positive duration" for the settle wait, and every value of the others. -/
def Config.wellFormed (c : Config) : Bool := decide (0 < c.tSettle)

end Sys2Proof
end

