-- ==== Sys2Proof/Decode.lean ====
section
/-! DEFINITION. The opcode table (30_encoding.md R65), the decoder (R62, R64, R66, R67) and the encoder (R71). -/

namespace Sys2Proof

/-- `req[15:12]` (R60). -/
def opField (req : Word) : BitVec 4 := req.extractLsb' 12 4

/-- `req[7:0]`, the field BYTE (R63). -/
def byteField (req : Word) : Byte := req.extractLsb' 0 8

/-- `req[8]`, the field R (R63). -/
def rowField (req : Word) : Row := req.extractLsb' 8 1

/-- `req[3:0]`, the field C, and the field E of a section (R63). -/
def lowColumnField (req : Word) : Column := req.extractLsb' 0 4

/-- `req[7:4]`, the field B of a section (R63). -/
def highColumnField (req : Word) : Column := req.extractLsb' 4 4

/-- The field W, `req[0]`: 0 selects FOUR and 1 selects EIGHT (R62). -/
def widthField (req : Word) : BusWidth := if req.getLsbD 0 then .eight else .four

/-- The bit of a width in the field W (R62). -/
def BusWidth.bit : BusWidth → BitVec 1
  | .four => 0
  | .eight => 1

/-- A row of R65: the mnemonic, match and mask, and the request its operand fields (R61, R63) make. -/
structure OpcodeRow where
  mnemonic : String
  matchBits : Word
  mask : Word
  build : Word → Instr

/-- The table of R65 in opcode order: row `op` stands at index `op`. -/
def opcodeTable : List OpcodeRow :=
  [ ⟨"init", 0x0000, 0xFFFE, fun q => .init (widthField q)⟩,
    ⟨"transmit", 0x1000, 0xFF00, fun q => .transmit (byteField q)⟩,
    ⟨"send_command", 0x2000, 0xFC00, fun q => .sendCommand (q.getLsbD 9) (q.getLsbD 8) (byteField q)⟩,
    ⟨"set_cursor", 0x3000, 0xFEF0, fun q => .setCursor (rowField q) (lowColumnField q)⟩,
    ⟨"write_char", 0x4000, 0xFF00, fun q => .writeChar (byteField q)⟩,
    ⟨"clear_screen", 0x5000, 0xFFFF, fun _ => .clearScreen⟩,
    ⟨"clear_char", 0x6000, 0xFEF0, fun q => .clearChar (rowField q) (lowColumnField q)⟩,
    ⟨"clear_row", 0x7000, 0xFEFF, fun q => .clearRow (rowField q)⟩,
    ⟨"clear_section", 0x8000, 0xFE00,
      fun q => .clearSection (rowField q) (highColumnField q) (lowColumnField q)⟩,
    ⟨"backspace", 0x9000, 0xFFFF, fun _ => .backspace⟩,
    ⟨"shift_cursor_right", 0xA000, 0xFFFF, fun _ => .shiftCursorRight⟩,
    ⟨"shift_cursor_left", 0xB000, 0xFFFF, fun _ => .shiftCursorLeft⟩,
    ⟨"enable_cursor", 0xC000, 0xFFFF, fun _ => .enableCursor⟩,
    ⟨"disable_cursor", 0xD000, 0xFFFF, fun _ => .disableCursor⟩ ]

/-- The row an opcode selects; none for 0xE and 0xF, which are reserved (R62, R66). -/
def rowOfOp (op : BitVec 4) : Option OpcodeRow := opcodeTable[op.toNat]?

/-- Why a word is no request: both reasons raise ReservedRequest (R64, R66). -/
inductive DecodeReject where
  /-- `req[15:12]` is 0xE or 0xF (R66). -/
  | reservedOpcode
  /-- The opcode is that of `mnemonic`, and a reserved bit is not zero (R64). -/
  | reservedBits (mnemonic : String)
  deriving DecidableEq, Repr

/-- The decoder, total on all 65,536 words (R67). The test of reserved bits is R64's. -/
def decode (req : Word) : Except DecodeReject Instr :=
  match rowOfOp (opField req) with
  | none => .error .reservedOpcode
  | some row => if req &&& row.mask = row.matchBits then .ok (row.build req) else .error (.reservedBits row.mnemonic)

/-- The request word of an instruction, by the formulas of R71. -/
def encode : Instr → Word
  | .init w => 0x0000 ||| w.bit.setWidth 16
  | .transmit b => 0x1000 ||| b.setWidth 16
  | .sendCommand s d b => 0x2000 ||| (BitVec.ofBool s).setWidth 16 <<< 9 ||| (BitVec.ofBool d).setWidth 16 <<< 8 ||| b.setWidth 16
  | .setCursor r c => 0x3000 ||| r.setWidth 16 <<< 8 ||| c.setWidth 16
  | .writeChar b => 0x4000 ||| b.setWidth 16
  | .clearScreen => 0x5000
  | .clearChar r c => 0x6000 ||| r.setWidth 16 <<< 8 ||| c.setWidth 16
  | .clearRow r => 0x7000 ||| r.setWidth 16 <<< 8
  | .clearSection r g e => 0x8000 ||| r.setWidth 16 <<< 8 ||| g.setWidth 16 <<< 4 ||| e.setWidth 16
  | .backspace => 0x9000
  | .shiftCursorRight => 0xA000
  | .shiftCursorLeft => 0xB000
  | .enableCursor => 0xC000
  | .disableCursor => 0xD000

/-- The request word that the low `nbits` bits of `w` make: a request is one 16-bit word (R69), whose other bits are 0. -/
def tableWord (nbits w : Nat) : Word := BitVec.ofNat 16 (w % 2 ^ nbits)

/-- What the decoder reads from a word of the opcode table. -/
def decodeTableWord (nbits w : Nat) : Option Instr :=
  match decode (tableWord nbits w) with
  | .ok i => some i
  | .error _ => none

end Sys2Proof
end

