-- ==== Sys2Proof/Machine/State.lean ====
section
/-! DEFINITION. The block's state (10_state.md R20 to R36), its power-on values, and the reasons a step stops. -/

namespace Sys2Proof.Machine

/-- `phase` (R20): UNINIT from power-on to init, READY after it. -/
inductive Phase where
  | uninit
  | ready
  deriving DecidableEq, Repr

/-- The fault kinds of 60_exceptions.md R160. -/
inductive FaultKind where
  /-- code 1: clear_section with begin > end. -/
  | invalidCoordinate
  /-- code 2: a request other than init in UNINIT, or init in READY. -/
  | protocolSequenceViolation
  /-- code 3: a reserved opcode, or a reserved bit set. -/
  | reservedRequest
  /-- code 4: send_command with RW = 1. -/
  | readNotSupported
  deriving DecidableEq, Repr

/-- The fault record (R21): the kind, and the request word that raised it. -/
structure FaultRecord where
  kind : FaultKind
  req : Word
  deriving DecidableEq, Repr

/-- A pin event (00_scope.md R14). `wait` is `Wait(P_T_SETTLE)`, kept as a marker (70_reset_and_hazards.md
R195, log 10). -/
inductive Event where
  | set (line : Line)
  | clr (line : Line)
  | wait
  deriving DecidableEq, Repr

/-- The block's state. `none` in `busWidth`, `cursorRow` and `cursorColumn` is the spec's own "holds no
value" (R22, R36). `pending` and `cfg` are the model's own fields: the words the requester has on offer
(log 1), and the parameters (R9, R29, log 5). -/
structure State where
  /-- R20. -/
  phase : Phase
  /-- R21: none, or the record of the fault that halted the block. -/
  fault : Option FaultRecord
  /-- R22. -/
  busWidth : Option BusWidth
  /-- R23. -/
  cursorRow : Option Row
  /-- R24. -/
  cursorColumn : Option Column
  /-- R25: `lvl[L]` of the 11 lines. -/
  lvl : Levels
  /-- R28: the pin history, oldest event first. -/
  H : List Event
  /-- R30: the index of the next request in the requester's stream (log 2). -/
  position : Nat
  /-- R60: the words on offer at the request port, next first (log 1). -/
  pending : List Word
  /-- R9, R29: the parameters, fixed for the run (log 5). -/
  cfg : Config
  deriving DecidableEq, Repr

/-- The reasons a step stops with a fault. The fault kinds of the spec are none of these: raising one is a
next state whose `fault` field holds the record (60_exceptions.md R162). -/
inductive Fault where
  /-- Raised by `step` in a state whose `fault` is set: "While `fault != none`, the block has no step" (R163).
  Safe (log 4). -/
  | halted (kind : FaultKind) (req : Word)
  /-- Raised by a request that reads `bus_width` while it holds no value. The spec calls this read unreachable
  (R22, R36): it needs READY without a width, which no run reaches. Safe (log 9). -/
  | busWidthHoldsNoValue
  /-- Raised by backspace when it reads the cursor cache while that holds no value. Unreachable as above (R36).
  Safe (log 9). -/
  | cursorHoldsNoValue
  deriving DecidableEq, Repr

/-- The reasons a step is refused. -/
inductive Refusal where
  /-- Raised by an arm of `exec` whose instruction has no meaning yet; no arm is left so. Safe. -/
  | notModelled (mnemonic : String)
  deriving DecidableEq, Repr

/-- Power-on (R36, 70_reset_and_hazards.md R180) of a block with the parameters `cfg`. No word is on offer. -/
def State.powerOn (cfg : Config) : State where
  phase := .uninit
  fault := none
  busWidth := none
  cursorRow := none
  cursorColumn := none
  lvl := cfg.lineResetLevel
  H := []
  position := 0
  pending := []
  cfg := cfg

/-- The machine right after reset, with the parameters at the spec's vector values (R9). The parameters are
OPEN in the spec, so statements about power-on speak of `State.powerOn cfg` for every `cfg` (log 5). -/
def State.reset : State := State.powerOn Config.vectorValues

end Sys2Proof.Machine
end

