-- ==== Sys2Proof/Machine/Operands.lean ====
section
/-! DEFINITION. What a line's level is and how an event changes it (10_state.md R25), which lines carry which
bits (20_memory.md R46, R47), and the cursor-to-DDRAM translator (R41, R42). -/

namespace Sys2Proof

/-- `lvl[L]` (R25). -/
def Levels.get (lv : Levels) : Line → Level
  | .rs => lv.rs
  | .rw => lv.rw
  | .e => lv.e
  | .d7 => lv.d7
  | .d6 => lv.d6
  | .d5 => lv.d5
  | .d4 => lv.d4
  | .d3 => lv.d3
  | .d2 => lv.d2
  | .d1 => lv.d1
  | .d0 => lv.d0

/-- `lvl[L] <- v` (00_scope.md R13). -/
def Levels.put (lv : Levels) : Line → Level → Levels
  | .rs, v => { lv with rs := v }
  | .rw, v => { lv with rw := v }
  | .e, v => { lv with e := v }
  | .d7, v => { lv with d7 := v }
  | .d6, v => { lv with d6 := v }
  | .d5, v => { lv with d5 := v }
  | .d4, v => { lv with d4 := v }
  | .d3, v => { lv with d3 := v }
  | .d2, v => { lv with d2 := v }
  | .d1, v => { lv with d1 := v }
  | .d0, v => { lv with d0 := v }

end Sys2Proof

namespace Sys2Proof.Machine

/-- The eight data lines with the bits of `b` they carry in EIGHT mode, in writing order (R46, 40_bus_encoder.md R83). -/
def byteLines (b : Byte) : List (Line × Level) :=
  [(.d7, b.getLsbD 7), (.d6, b.getLsbD 6), (.d5, b.getLsbD 5), (.d4, b.getLsbD 4),
   (.d3, b.getLsbD 3), (.d2, b.getLsbD 2), (.d1, b.getLsbD 1), (.d0, b.getLsbD 0)]

/-- D7..D4 with the bits of `n` they carry, in writing order (R47, R84, and the raw patterns of R101 and R102). -/
def nibbleLines (n : Nibble) : List (Line × Level) :=
  [(.d7, n.getLsbD 3), (.d6, n.getLsbD 2), (.d5, n.getLsbD 1), (.d4, n.getLsbD 0)]

/-- `b[7:4]` (R47). -/
def highNibble (b : Byte) : Nibble := b.extractLsb' 4 4

/-- `b[3:0]` (R47). -/
def lowNibble (b : Byte) : Nibble := b.extractLsb' 0 4

/-- The nibble 0011 of the reset handshake (00_scope.md R10, 41_command_protocol.md R101). -/
def resetNibble : Nibble := 0b0011

/-- The nibble 0010 of the 4-bit enable (R10, R102). -/
def enable4Nibble : Nibble := 0b0010

/-- Row 0 of `ADDRESS_TABLE`, as R41 lists it. -/
def addressRow0 : List Address :=
  [0x00, 0x01, 0x02, 0x03, 0x04, 0x05, 0x06, 0x07, 0x08, 0x09, 0x0A, 0x0B, 0x0C, 0x0D, 0x0E, 0x0F]

/-- Row 1 of `ADDRESS_TABLE`, as R41 lists it. -/
def addressRow1 : List Address :=
  [0x40, 0x41, 0x42, 0x43, 0x44, 0x45, 0x46, 0x47, 0x48, 0x49, 0x4A, 0x4B, 0x4C, 0x4D, 0x4E, 0x4F]

/-- `ADDRESS_TABLE[r][c]` (10_state.md R27, R41). Both rows have 16 entries, so the lookup always hits. -/
def ddramAddress (r : Row) (c : Column) : Address :=
  (if r = 0 then addressRow0 else addressRow1).getD c.toNat 0

/-- The set-address instruction byte, `0x80 | DDRAM_ADDR(r, c)` (R42). -/
def setAddressByte (r : Row) (c : Column) : Byte := 0x80 ||| (ddramAddress r c).setWidth 8

end Sys2Proof.Machine
end

