-- ==== Sys2Proof/Machine/Flags.lean ====
section
/-! DEFINITION. The block's status. It has no flag and no condition code: `phase` and `fault` are all the status
it keeps (10_state.md R31). Here are the codes of the fault kinds and the check every request passes. -/

namespace Sys2Proof.Machine

/-- The 3-bit code of a fault kind (60_exceptions.md R160); 0 and 5 to 7 are never used. -/
def FaultKind.code : FaultKind → BitVec 3
  | .invalidCoordinate => 1
  | .protocolSequenceViolation => 2
  | .reservedRequest => 3
  | .readNotSupported => 4

/-- What R160's last column records: the code, and the request word. -/
def FaultRecord.recorded (r : FaultRecord) : BitVec 3 × Word := (r.kind.code, r.req)

/-- `Check(req)` (R161): the first kind that applies, in the fixed order, or none. -/
def check (phase : Phase) (req : Word) : Option FaultKind :=
  match rowOfOp (opField req) with
  | none => some .reservedRequest
  | some row =>
    if req &&& row.mask ≠ row.matchBits then some .reservedRequest
    else if opField req = 0x0 ∧ phase = .ready then some .protocolSequenceViolation
    else if opField req ≠ 0x0 ∧ phase = .uninit then some .protocolSequenceViolation
    else if opField req = 0x2 ∧ req.getLsbD 8 = true then some .readNotSupported
    else if opField req = 0x8 ∧ highColumnField req > lowColumnField req then some .invalidCoordinate
    else none

end Sys2Proof.Machine
end

