-- ==== Sys2Proof/Machine/Ops.lean ====
section
/-! DEFINITION. The shared operations: the request port, fault entry, emitting events, and the procedures of the
bus encoder (40_bus_encoder.md), the command protocol (41_command_protocol.md) and the display session
(42_display_session.md). Each procedure is its pseudocode, run in the order written (00_scope.md R16). -/

namespace Sys2Proof.Machine

/-! ## The request port -/

/-- The word on offer at the request port, if any (30_encoding.md R60). -/
def State.fetch (s : State) : Option Word := s.pending.head?

/-- The word on offer is taken, and the next one of the stream comes up (R60, 10_state.md R30; log 1, log 2). -/
def State.takeRequest (s : State) : State :=
  { s with pending := s.pending.tail, position := s.position + 1 }

/-- The requester puts words at the end of its stream (log 1). -/
def State.offer (s : State) (ws : List Word) : State := { s with pending := s.pending ++ ws }

/-- No word is on offer: the block waits and holds its lines (60_exceptions.md R173).
DESIGN CHOICE, safe (log 3). -/
def idle (s : State) : Host.Outcome State Fault Refusal := .next s

/-! ## Taking a fault

There is no return from one: no request clears the record (60_exceptions.md R164), only power-on does, which
is `State.powerOn` (70_reset_and_hazards.md R180). -/

/-- `raise Fault(kind, req)`: only `fault <- (kind, req)` (00_scope.md R15, 60_exceptions.md R162). -/
def State.raise (s : State) (kind : FaultKind) (req : Word) : State :=
  { s with fault := some { kind := kind, req := req } }

/-- Why the block has no step: it is halted by a recorded fault (R163; log 4). -/
def State.haltReason (s : State) : Option Fault :=
  match s.fault with
  | none => none
  | some r => some (.halted r.kind r.req)

/-- A word the decoder rejects raises ReservedRequest, whichever reason it has (30_encoding.md R64, R66). -/
def rejectWord (_reason : DecodeReject) (req : Word) (s : State) : Host.Outcome State Fault Refusal :=
  .next (s.raise .reservedRequest req)

/-- Every operation's entry: `Check(req)`, then the operation or the fault (30_encoding.md R68, R161). `req` is
the request's own word (log 16). -/
def checked (req : Word) (s : State) (body : State → Host.Outcome State Fault Refusal) :
    Host.Outcome State Fault Refusal :=
  match check s.phase req with
  | some kind => .next (s.raise kind req)
  | none => body s

/-! ## Reading elements that may hold no value (10_state.md R22, R36; log 9) -/

/-- Reads `bus_width`. -/
def withWidth (s : State) (body : BusWidth → Host.Outcome State Fault Refusal) :
    Host.Outcome State Fault Refusal :=
  match s.busWidth with
  | none => .fault .busWidthHoldsNoValue
  | some w => body w

/-- Reads the cursor cache. -/
def withCursor (s : State) (body : Row → Column → Host.Outcome State Fault Refusal) :
    Host.Outcome State Fault Refusal :=
  match s.cursorRow, s.cursorColumn with
  | some r, some c => body r c
  | _, _ => .fault .cursorHoldsNoValue

/-! ## Writing state elements (00_scope.md R13) -/

/-- `phase <- p`. -/
def State.setPhase (s : State) (p : Phase) : State := { s with phase := p }

/-- `bus_width <- w`. -/
def State.setBusWidth (s : State) (w : BusWidth) : State := { s with busWidth := some w }

/-- `(cursor_row, cursor_column) <- (r, c)`. -/
def State.setCursorCache (s : State) (r : Row) (c : Column) : State :=
  { s with cursorRow := some r, cursorColumn := some c }

/-! ## Events and lines -/

/-- What an event does to the levels: a line keeps its level until its next `Set` or `Clr` (10_state.md R25);
a wait changes no line (40_bus_encoder.md R82). -/
def applyEvent (lv : Levels) : Event → Levels
  | .set l => lv.put l true
  | .clr l => lv.put l false
  | .wait => lv

/-- `emit ev` (00_scope.md R14), with the write of `lvl` that goes with it (R80, R81). -/
def State.emit (s : State) (ev : Event) : State :=
  { s with H := s.H ++ [ev], lvl := applyEvent s.lvl ev }

/-- `Drive(L, v)` (40_bus_encoder.md R80). -/
def drive (l : Line) (v : Level) (s : State) : State :=
  let s := s.emit (.clr l)
  if v then s.emit (.set l) else s

/-- The Drives of a list of lines, in its order. -/
def driveLines (ls : List (Line × Level)) (s : State) : State :=
  ls.foldl (fun s p => drive p.1 p.2 s) s

/-- `Pulse()` (R81). -/
def pulse (s : State) : State :=
  let s := s.emit (.set .e)
  let s := s.emit .wait
  let s := s.emit (.clr .e)
  s.emit .wait

/-- `Transmit(b)` with the bus width `w` (R83, R84). -/
def transmit (w : BusWidth) (b : Byte) (s : State) : State :=
  match w with
  | .eight =>
    let s := driveLines (byteLines b) s
    pulse s
  | .four =>
    let s := driveLines (nibbleLines (highNibble b)) s
    let s := pulse s
    let s := driveLines (nibbleLines (lowNibble b)) s
    pulse s

/-! ## Command protocol -/

/-- `SendCommand(rs, rw, b)` (41_command_protocol.md R100). -/
def sendCommand (w : BusWidth) (rs rw : Level) (b : Byte) (s : State) : State :=
  let s := drive .rs rs s
  let s := drive .rw rw s
  transmit w b s

/-- `ResetSeq()` (R101). -/
def resetSeq (s : State) : State :=
  let s := drive .rs false s
  let s := driveLines (nibbleLines resetNibble) s
  let s := pulse s
  let s := pulse s
  pulse s

/-- `Enable4Seq()` (R102). -/
def enable4Seq (s : State) : State :=
  let s := drive .rs false s
  let s := driveLines (nibbleLines enable4Nibble) s
  pulse s

/-! ## Display session -/

/-- `SetCursor(r, c)` (42_display_session.md R120). -/
def setCursor (w : BusWidth) (r : Row) (c : Column) (s : State) : State :=
  let s := s.setCursorCache r c
  sendCommand w false false (setAddressByte r c) s

/-- `WriteChar(b)` (R122). -/
def writeChar (w : BusWidth) (b : Byte) (s : State) : State := sendCommand w true false b s

/-- `n` times `WriteChar(P_SPACE)`, the loops of R130 and R133. -/
def writeSpaces (w : BusWidth) : Nat → State → State
  | 0, s => s
  | n + 1, s => writeSpaces w n (writeChar w s.cfg.space s)

/-- `ClearScreen()` (R126). -/
def clearScreen (w : BusWidth) (s : State) : State := sendCommand w false false s.cfg.cmdClear s

/-- SetCursor, `n` spaces, SetCursor: the shape that clear_char, clear_row, clear_section and backspace share
(R128, R130, R133, R138). -/
def blankFrom (w : BusWidth) (r : Row) (c : Column) (n : Nat) (s : State) : State :=
  let s := setCursor w r c s
  let s := writeSpaces w n s
  setCursor w r c s

/-- `Init(W)` (41_command_protocol.md R104). -/
def initialise (w : BusWidth) (s : State) : State :=
  let s := s.setBusWidth w
  let s := resetSeq s
  let s := match w with
    | .four => enable4Seq s
    | .eight => s
  let s := clearScreen w s
  let s := s.setCursorCache s.cfg.initCursorRow s.cfg.initCursorColumn
  s.setPhase .ready

end Sys2Proof.Machine
end

