-- ==== Sys2Proof/Machine/BusEncoder.lean ====
section
/-! DEFINITION. The bus encoder's request (40_bus_encoder.md). -/

namespace Sys2Proof.Machine

/-- `transmit b` (R85): the byte goes out under the mode lines as they stand. -/
def execTransmit (b : Byte) (s : State) : Host.Outcome State Fault Refusal :=
  checked (encode (.transmit b)) s fun s => withWidth s fun w => .next (transmit w b s)

end Sys2Proof.Machine
end

