-- ==== Sys2Proof/Machine/CommandProtocol.lean ====
section
/-! DEFINITION. The command protocol's requests (41_command_protocol.md). -/

namespace Sys2Proof.Machine

/-- `init W` (R104). -/
def execInit (width : BusWidth) (s : State) : Host.Outcome State Fault Refusal :=
  checked (encode (.init width)) s fun s => .next (initialise width s)

/-- `send_command rs, rw, b` (R100). With rw = 1 the check raises ReadNotSupported before any event. -/
def execSendCommand (rs rw : Level) (b : Byte) (s : State) : Host.Outcome State Fault Refusal :=
  checked (encode (.sendCommand rs rw b)) s fun s => withWidth s fun w => .next (sendCommand w rs rw b s)

end Sys2Proof.Machine
end

