-- ==== Sys2Proof/Machine/DisplaySession.lean ====
section
/-! DEFINITION. The display session's requests (42_display_session.md). None but backspace reads the cursor
cache (10_state.md R24), and none moves it but through SetCursor (R149). -/

namespace Sys2Proof.Machine

/-- `set_cursor r, c` (R120). -/
def execSetCursor (r : Row) (c : Column) (s : State) : Host.Outcome State Fault Refusal :=
  checked (encode (.setCursor r c)) s fun s => withWidth s fun w => .next (setCursor w r c s)

/-- `write_char b` (R122). -/
def execWriteChar (b : Byte) (s : State) : Host.Outcome State Fault Refusal :=
  checked (encode (.writeChar b)) s fun s => withWidth s fun w => .next (writeChar w b s)

/-- `clear_screen` (R126). -/
def execClearScreen (s : State) : Host.Outcome State Fault Refusal :=
  checked (encode .clearScreen) s fun s => withWidth s fun w => .next (clearScreen w s)

/-- `clear_char r, c` (R128): one space. -/
def execClearChar (r : Row) (c : Column) (s : State) : Host.Outcome State Fault Refusal :=
  checked (encode (.clearChar r c)) s fun s => withWidth s fun w => .next (blankFrom w r c 1 s)

/-- `clear_row r` (R130): 15 spaces, not 16 (90_conflicts.md C1). -/
def execClearRow (r : Row) (s : State) : Host.Outcome State Fault Refusal :=
  checked (encode (.clearRow r)) s fun s => withWidth s fun w => .next (blankFrom w r 0 15 s)

/-- `clear_section r, g, e` (R133): e - g + 1 spaces. The check raises InvalidCoordinate when g > e. -/
def execClearSection (r : Row) (g e : Column) (s : State) : Host.Outcome State Fault Refusal :=
  checked (encode (.clearSection r g e)) s fun s =>
    withWidth s fun w => .next (blankFrom w r g (e.toNat + 1 - g.toNat) s)

/-- `backspace` (R138; 90_conflicts.md C2). At column 0 nothing happens. -/
def execBackspace (s : State) : Host.Outcome State Fault Refusal :=
  checked (encode .backspace) s fun s =>
    withCursor s fun r c =>
      if c = 0 then .next s
      else withWidth s fun w => .next (blankFrom w r (c - 1) 1 s)

/-- `shift_cursor_right` (R141). -/
def execShiftCursorRight (s : State) : Host.Outcome State Fault Refusal :=
  checked (encode .shiftCursorRight) s fun s =>
    withWidth s fun w => .next (sendCommand w false false s.cfg.cmdShiftRight s)

/-- `shift_cursor_left` (R143). -/
def execShiftCursorLeft (s : State) : Host.Outcome State Fault Refusal :=
  checked (encode .shiftCursorLeft) s fun s =>
    withWidth s fun w => .next (sendCommand w false false s.cfg.cmdShiftLeft s)

/-- `enable_cursor` (R145). -/
def execEnableCursor (s : State) : Host.Outcome State Fault Refusal :=
  checked (encode .enableCursor) s fun s =>
    withWidth s fun w => .next (sendCommand w false false s.cfg.cmdCursorOn s)

/-- `disable_cursor` (R147). -/
def execDisableCursor (s : State) : Host.Outcome State Fault Refusal :=
  checked (encode .disableCursor) s fun s =>
    withWidth s fun w => .next (sendCommand w false false s.cfg.cmdCursorOff s)

end Sys2Proof.Machine
end

