-- ==== Sys2Proof/Machine/Dispatch.lean ====
section
/-! DEFINITION. Which meaning a request has: the case of `Step(req)` (30_encoding.md R68). -/

namespace Sys2Proof.Machine

def exec (i : Instr) (s : State) : Host.Outcome State Fault Refusal :=
  match i with
  | .init width => Sys2Proof.Machine.execInit width s
  | .transmit byte => Sys2Proof.Machine.execTransmit byte s
  | .sendCommand rs rw byte => Sys2Proof.Machine.execSendCommand rs rw byte s
  | .setCursor row column => Sys2Proof.Machine.execSetCursor row column s
  | .writeChar byte => Sys2Proof.Machine.execWriteChar byte s
  | .clearScreen => Sys2Proof.Machine.execClearScreen s
  | .clearChar row column => Sys2Proof.Machine.execClearChar row column s
  | .clearRow row => Sys2Proof.Machine.execClearRow row s
  | .clearSection row first last => Sys2Proof.Machine.execClearSection row first last s
  | .backspace => Sys2Proof.Machine.execBackspace s
  | .shiftCursorRight => Sys2Proof.Machine.execShiftCursorRight s
  | .shiftCursorLeft => Sys2Proof.Machine.execShiftCursorLeft s
  | .enableCursor => Sys2Proof.Machine.execEnableCursor s
  | .disableCursor => Sys2Proof.Machine.execDisableCursor s

end Sys2Proof.Machine
end

