-- ==== Sys2Proof/Machine/Step.lean ====
section
/-! DEFINITION. One step of the block (30_encoding.md R68). -/

namespace Sys2Proof.Machine

/-- `Step(req)`: no step while halted; else the word on offer is taken, decoded and performed. With no word on
offer the block idles (log 3). The checks of the phase and the operands stand in each operation's entry, `checked`. -/
def step (s : State) : Host.Outcome State Fault Refusal :=
  match s.haltReason with
  | some stop => .fault stop
  | none =>
    match s.fetch with
    | none => idle s
    | some req =>
      match decode req with
      | .error reason => rejectWord reason req s.takeRequest
      | .ok i => exec i s.takeRequest

/-- The request word that the low `nbits` bits of `w` make is put first on offer, so that the next step takes it (log 1). -/
def State.withFetchWord (s : State) (nbits w : Nat) : State :=
  { s with pending := tableWord nbits w :: s.pending }

end Sys2Proof.Machine
end

