-- ==== Sys2Proof/Machine/Assembler.lean ====
section
/-! DEFINITION. The assembler (30_encoding.md R70, R71) and the pseudo-request write_string (R72). It stands outside
the block: it makes request words and has no effect on any rule (92_eei_decisions.md D2). What R70 leaves open of the
text form is log 13 and log 14. -/

namespace Sys2Proof.Machine

/-! ## Lines to words -/

/-- The requests of a line whose operands fit: one for each line of R71, n of write_char for write_string (R72). -/
def requestsOf : AsmLine → List Instr
  | .init w => [.init w]
  | .transmit b => [.transmit (BitVec.ofNat 8 b)]
  | .sendCommand rs rw b => [.sendCommand (rs == 1) (rw == 1) (BitVec.ofNat 8 b)]
  | .setCursor r c => [.setCursor (BitVec.ofNat 1 r) (BitVec.ofNat 4 c)]
  | .writeChar b => [.writeChar (BitVec.ofNat 8 b)]
  | .clearScreen => [.clearScreen]
  | .clearChar r c => [.clearChar (BitVec.ofNat 1 r) (BitVec.ofNat 4 c)]
  | .clearRow r => [.clearRow (BitVec.ofNat 1 r)]
  | .clearSection r g e => [.clearSection (BitVec.ofNat 1 r) (BitVec.ofNat 4 g) (BitVec.ofNat 4 e)]
  | .backspace => [.backspace]
  | .shiftCursorRight => [.shiftCursorRight]
  | .shiftCursorLeft => [.shiftCursorLeft]
  | .enableCursor => [.enableCursor]
  | .disableCursor => [.disableCursor]
  | .writeString codes => codes.map fun b => .writeChar (BitVec.ofNat 8 b)

/-- Assembles a line; a line with an operand that does not fit is refused and makes no word (R70). -/
def assemble (l : AsmLine) : Option (List Word) :=
  if l.wellFormed then some ((requestsOf l).map encode) else none

/-! ## Text to lines -/

/-- Blank or tab. -/
def isBlank (c : Char) : Bool := c.toNat == 32 || c.toNat == 9

/-- Removes blanks at both ends. -/
def trimBlanks (cs : List Char) : List Char :=
  ((cs.dropWhile isBlank).reverse.dropWhile isBlank).reverse

/-- The value of a digit in a base of at most 16. -/
def digitValue (base : Nat) (c : Char) : Option Nat :=
  let n := c.toNat
  let v := if 48 ≤ n ∧ n ≤ 57 then n - 48
    else if 65 ≤ n ∧ n ≤ 70 then n - 55
    else if 97 ≤ n ∧ n ≤ 102 then n - 87
    else 16
  if v < base then some v else none

/-- The digits of a number, most significant first, after the value read so far. -/
def digitsValue (base : Nat) : Nat → List Char → Option Nat
  | acc, [] => some acc
  | acc, c :: cs =>
    match digitValue base c with
    | none => none
    | some v => digitsValue base (acc * base + v) cs

/-- A number has at least one digit. -/
def numberValue (base : Nat) (cs : List Char) : Option Nat :=
  if cs.isEmpty then none else digitsValue base 0 cs

/-- The ASCII code of a character; none for a character outside ASCII (R70, log 14). -/
def asciiCode (c : Char) : Option Nat := if c.toNat < 128 then some c.toNat else none

/-- A number operand: a character literal, hexadecimal with a `0x` in front, or decimal (R70). -/
def numberOperand : List Char → Option Nat
  | [q, c, q'] =>
    if q.toNat = 39 ∧ q'.toNat = 39 then asciiCode c
    else if q = '0' ∧ c = 'x' then numberValue 16 [q'] else numberValue 10 [q, c, q']
  | '0' :: 'x' :: cs => numberValue 16 cs
  | cs => numberValue 10 cs

/-- Splits operands at commas; a comma between single quotes is a character. `acc` holds the operand read so
far, last character first. -/
def splitOperands : List Char → List Char → List (List Char)
  | acc, [] => [trimBlanks acc.reverse]
  | acc, c :: cs =>
    if c = ',' ∧ ¬ (acc.map Char.toNat = [39] ∧ cs.head?.map Char.toNat = some 39) then
      trimBlanks acc.reverse :: splitOperands [] cs
    else splitOperands (if isBlank c && acc.isEmpty then acc else c :: acc) cs

/-- The operands after the mnemonic; a line with nothing after it has none. -/
def operandsOf (cs : List Char) : List (List Char) := if cs.isEmpty then [] else splitOperands [] cs

/-- init's operand (R70). -/
def widthOperand (cs : List Char) : Option BusWidth :=
  if cs = "FOUR".toList then some .four else if cs = "EIGHT".toList then some .eight else none

/-- The characters of a string literal: between double quotes, no quote inside, no escapes (log 13). -/
def stringOperand : List Char → Option (List Char)
  | [] => none
  | q :: cs =>
    if q.toNat = 34 ∧ cs.getLast?.map Char.toNat = some 34 ∧ cs.dropLast.all (fun c => c.toNat != 34) then
      some cs.dropLast
    else none

/-- The line of a mnemonic and the text after it (R70). -/
def lineOf (mnemonic rest : List Char) : Option AsmLine :=
  if mnemonic = "write_string".toList then
    (stringOperand rest).bind fun cs => (cs.mapM asciiCode).map .writeString
  else if mnemonic = "init".toList then
    match operandsOf rest with
    | [w] => (widthOperand w).map .init
    | _ => none
  else
    match (operandsOf rest).mapM numberOperand with
    | none => none
    | some ops =>
      if mnemonic = "transmit".toList then
        match ops with
        | [b] => some (.transmit b)
        | _ => none
      else if mnemonic = "send_command".toList then
        match ops with
        | [s, d, b] => some (.sendCommand s d b)
        | _ => none
      else if mnemonic = "set_cursor".toList then
        match ops with
        | [r, c] => some (.setCursor r c)
        | _ => none
      else if mnemonic = "write_char".toList then
        match ops with
        | [b] => some (.writeChar b)
        | _ => none
      else if mnemonic = "clear_char".toList then
        match ops with
        | [r, c] => some (.clearChar r c)
        | _ => none
      else if mnemonic = "clear_row".toList then
        match ops with
        | [r] => some (.clearRow r)
        | _ => none
      else if mnemonic = "clear_section".toList then
        match ops with
        | [r, g, e] => some (.clearSection r g e)
        | _ => none
      else
        match ops with
        | [] =>
          if mnemonic = "clear_screen".toList then some .clearScreen
          else if mnemonic = "backspace".toList then some .backspace
          else if mnemonic = "shift_cursor_right".toList then some .shiftCursorRight
          else if mnemonic = "shift_cursor_left".toList then some .shiftCursorLeft
          else if mnemonic = "enable_cursor".toList then some .enableCursor
          else if mnemonic = "disable_cursor".toList then some .disableCursor
          else none
        | _ => none

/-- One line of text: the mnemonic, blanks, then its operands separated by commas (R70). -/
def parseLine (cs : List Char) : Option AsmLine :=
  let cs := trimBlanks cs
  lineOf (cs.takeWhile fun c => !isBlank c) (trimBlanks (cs.dropWhile fun c => !isBlank c))

/-- Assembles one line of text; none where the assembler refuses it. -/
def assembleText (cs : List Char) : Option (List Word) := (parseLine cs).bind assemble

/-- Assembles the lines of a program; a refused line emits nothing (R70). -/
def assembleProgram (lines : List (List Char)) : List Word :=
  lines.flatMap fun l => (assembleText l).getD []

end Sys2Proof.Machine
end

