-- ==== Sys2Proof/Machine/Wire.lean ====
section
/-! DEFINITION. What an observer reads off the wire: the latch view (40_bus_encoder.md R86), bytes read back from
latches (30_encoding.md R76), counts and modelled time (70_reset_and_hazards.md R194, R195); and, for statements,
each procedure's events as one list and the levels it leaves. The step uses none of this. -/

namespace Sys2Proof

/-! ## Levels -/

/-- The levels of D7..D0 as a byte, D7 its bit 7. -/
def Levels.dataByte (lv : Levels) : Byte :=
  BitVec.ofBool lv.d7 ++ BitVec.ofBool lv.d6 ++ BitVec.ofBool lv.d5 ++ BitVec.ofBool lv.d4 ++
  BitVec.ofBool lv.d3 ++ BitVec.ofBool lv.d2 ++ BitVec.ofBool lv.d1 ++ BitVec.ofBool lv.d0

/-- The levels Transmit leaves (R89): the last nibble or byte on the driven data lines, and E low. -/
def Levels.afterByte (lv : Levels) : BusWidth → Byte → Levels
  | .eight, b =>
    { lv with e := false, d7 := b.getLsbD 7, d6 := b.getLsbD 6, d5 := b.getLsbD 5, d4 := b.getLsbD 4,
              d3 := b.getLsbD 3, d2 := b.getLsbD 2, d1 := b.getLsbD 1, d0 := b.getLsbD 0 }
  | .four, b =>
    { lv with e := false, d7 := b.getLsbD 3, d6 := b.getLsbD 2, d5 := b.getLsbD 1, d4 := b.getLsbD 0 }

/-- The levels `SendCommand(rs, 0, b)` leaves (R100). -/
def Levels.afterCommand (lv : Levels) (w : BusWidth) (rs : Level) (b : Byte) : Levels :=
  { lv with rs := rs, rw := false }.afterByte w b

end Sys2Proof

namespace Sys2Proof.Machine

/-! ## Histories -/

/-- The levels after a list of events. -/
def replay (lv : Levels) (evs : List Event) : Levels := evs.foldl applyEvent lv

/-- The state after emitting a list of events. -/
def State.emitAll (s : State) (evs : List Event) : State :=
  { s with H := s.H ++ evs, lvl := replay s.lvl evs }

/-- The events a history `after` holds beyond the history `before`. -/
def newEvents (before after : List Event) : List Event := after.drop before.length

/-- The number of strobe pulses: every pulse has one `Clr(E)`, and nothing else clears E (R81). -/
def pulseCount (evs : List Event) : Nat := evs.count (.clr .e)

/-- The number of settle waits. -/
def waitCount (evs : List Event) : Nat := evs.count .wait

/-- The modelled time: the waits, each `P_T_SETTLE` long; line writes take none (R82, R194). -/
def duration (cfg : Config) (evs : List Event) : Nat := waitCount evs * cfg.tSettle

/-! ## The latch view -/

/-- A latch: RS, RW, and D7..D0 as a byte (R86). -/
structure Latch where
  rs : Level
  rw : Level
  data : Byte
  deriving DecidableEq, Repr

/-- The latch tuple of the levels. -/
def latchOf (lv : Levels) : Latch := { rs := lv.rs, rw := lv.rw, data := lv.dataByte }

/-- `Latches(H)`, replayed from the levels `lv` (R86): a tuple at every `Clr(E)` met while E is high. -/
def latchesFrom : Levels → List Event → List Latch
  | _, [] => []
  | lv, ev :: evs =>
    if ev = .clr .e ∧ lv.e = true then latchOf lv :: latchesFrom (applyEvent lv ev) evs
    else latchesFrom (applyEvent lv ev) evs

/-- The latch view of a state's whole history, from the power-on levels (R86). -/
def State.latches (s : State) : List Latch := latchesFrom s.cfg.lineResetLevel s.H

/-- A byte as the controller reads it: RS tells an instruction from data (00_scope.md R17). -/
structure BusItem where
  rs : Level
  rw : Level
  byte : Byte
  deriving DecidableEq, Repr

/-- Reads latches back as whole bytes: one latch a byte in EIGHT mode, two in FOUR mode, high nibble first (R76).
RS and RW of a FOUR-mode byte are those of its first latch; a latch left over at the end makes no byte (log 15). -/
def readBytes : BusWidth → List Latch → List BusItem
  | .eight, ls => ls.map fun l => { rs := l.rs, rw := l.rw, byte := l.data }
  | .four, hi :: lo :: ls =>
    { rs := hi.rs, rw := hi.rw, byte := highNibble hi.data ++ highNibble lo.data } :: readBytes .four ls
  | .four, _ => []

/-- How many raw latches init's startup sequences make (R76, 41_command_protocol.md R105). -/
def rawLatchCount : BusWidth → Nat
  | .four => 4
  | .eight => 3

/-! ## The events of each procedure, and the levels it leaves -/

/-- `Drive(L, v)` (R80). -/
def driveEvents (l : Line) (v : Level) : List Event := if v then [.clr l, .set l] else [.clr l]

/-- The Drives of a list of lines. -/
def linesEvents (ls : List (Line × Level)) : List Event := ls.flatMap fun p => driveEvents p.1 p.2

/-- `Pulse()` (R81). -/
def pulseEvents : List Event := [.set .e, .wait, .clr .e, .wait]

/-- `Transmit(b)` (R83, R84). -/
def byteEvents : BusWidth → Byte → List Event
  | .eight, b => linesEvents (byteLines b) ++ pulseEvents
  | .four, b => linesEvents (nibbleLines (highNibble b)) ++ pulseEvents ++ linesEvents (nibbleLines (lowNibble b)) ++ pulseEvents

/-- `SendCommand(rs, rw, b)` (R100). -/
def commandEvents (w : BusWidth) (rs rw : Level) (b : Byte) : List Event :=
  driveEvents .rs rs ++ driveEvents .rw rw ++ byteEvents w b

/-- `ResetSeq()` (R101). -/
def resetEvents : List Event :=
  driveEvents .rs false ++ linesEvents (nibbleLines resetNibble) ++ pulseEvents ++ pulseEvents ++ pulseEvents

/-- `Enable4Seq()` (R102). -/
def enable4Events : List Event :=
  driveEvents .rs false ++ linesEvents (nibbleLines enable4Nibble) ++ pulseEvents

/-- `SetCursor(r, c)` (R120). -/
def setCursorEvents (w : BusWidth) (r : Row) (c : Column) : List Event :=
  commandEvents w false false (setAddressByte r c)

/-- `n` spaces (R130, R133). -/
def spaceEvents (cfg : Config) (w : BusWidth) (n : Nat) : List Event :=
  (List.replicate n (commandEvents w true false cfg.space)).flatten

/-- SetCursor, `n` spaces, SetCursor (R128, R130, R133, R138). -/
def blankEvents (cfg : Config) (w : BusWidth) (r : Row) (c : Column) (n : Nat) : List Event :=
  setCursorEvents w r c ++ spaceEvents cfg w n ++ setCursorEvents w r c

/-- `Init(W)` (R104). -/
def initEvents (cfg : Config) : BusWidth → List Event
  | .four => resetEvents ++ enable4Events ++ commandEvents .four false false cfg.cmdClear
  | .eight => resetEvents ++ commandEvents .eight false false cfg.cmdClear

end Sys2Proof.Machine
end

