-- ==== Sys2Proof/Safety.lean ====
section
/-! DEFINITION. What counts as a safe run: the states requests are performed in, the invariants of 10_state.md R35
and of the wire, and completion as 60_exceptions.md R163 asks for it. -/

namespace Sys2Proof.Machine

/-- The state every request but init is performed in: not halted, initialised, with the bus width `w` (60_exceptions.md
R161, R163; 10_state.md R35 (a)). -/
structure ReadyWith (s : State) (w : BusWidth) : Prop where
  notHalted : s.fault = none
  ready : s.phase = .ready
  width : s.busWidth = some w

/-- The state init is performed in: not halted, not yet initialised (R161, R163). -/
structure AwaitingInit (s : State) : Prop where
  notHalted : s.fault = none
  uninit : s.phase = .uninit

/-- The word `req` is on offer to a block that is not halted, with `rest` behind it. -/
structure Offered (s : State) (req : Word) (rest : List Word) : Prop where
  notHalted : s.fault = none
  port : s.pending = req :: rest

/-- `t` is `s` with the fault (kind, req) recorded, and every other element of the block as it was (60_exceptions.md R162). The
request port's fields are left out: what a step does to them is the model's choice (log 1, log 2). -/
structure RecordsOnly (s t : State) (kind : FaultKind) (req : Word) : Prop where
  record : t.fault = some { kind := kind, req := req }
  phase : t.phase = s.phase
  busWidth : t.busWidth = s.busWidth
  cursorRow : t.cursorRow = s.cursorRow
  cursorColumn : t.cursorColumn = s.cursorColumn
  lvl : t.lvl = s.lvl
  history : t.H = s.H
  cfg : t.cfg = s.cfg

/-- A history whose E events are whole pulses: each `Set(E)` is followed at once by Wait, `Clr(E)`, Wait, and there is
no other wait or E event (40_bus_encoder.md R81). -/
def strobed : List Event → Bool
  | [] => true
  | .set .e :: .wait :: .clr .e :: .wait :: evs => strobed evs
  | .set .e :: _ => false
  | .clr .e :: _ => false
  | .wait :: _ => false
  | .set _ :: evs => strobed evs
  | .clr _ :: evs => strobed evs

/-- What every step keeps and power-on establishes. -/
structure Inv (s : State) : Prop where
  /-- The parameters are legal (00_scope.md R9). -/
  legalConfig : s.cfg.wellFormed = true
  /-- R35 (a): in READY the width and the cache hold values. -/
  readyHolds : s.phase = .ready → s.busWidth.isSome ∧ s.cursorRow.isSome ∧ s.cursorColumn.isSome
  /-- R35 (b), R36: in UNINIT nothing has been emitted, and the width and the cache hold no value. -/
  uninitHolds : s.phase = .uninit → s.H = [] ∧ s.busWidth = none ∧ s.cursorRow = none ∧ s.cursorColumn = none
  /-- R35 (d): E is low once anything has been emitted. -/
  strobeLow : s.H ≠ [] → s.lvl.e = false
  /-- R25, R86: the levels are what the history makes of the power-on levels. -/
  levels : s.lvl = replay s.cfg.lineResetLevel s.H
  /-- 41_command_protocol.md R108: after init RW is low. -/
  writeOnly : s.phase = .ready → s.lvl.rw = false
  /-- R26: but in EIGHT mode, D3..D0 stay at their power-on levels. -/
  lowLines : s.busWidth ≠ some .eight →
    s.lvl.d3 = s.cfg.lineResetLevel.d3 ∧ s.lvl.d2 = s.cfg.lineResetLevel.d2 ∧
    s.lvl.d1 = s.cfg.lineResetLevel.d1 ∧ s.lvl.d0 = s.cfg.lineResetLevel.d0
  /-- R81: every pulse is whole. -/
  pulses : strobed s.H = true

/-- A run of `n` steps that completes: it reaches `t`, and the block is not halted there (R163). -/
def Completes (n : Nat) (s t : State) : Prop := Sys2Proof.core.run n s = .next t ∧ t.fault = none

/-- Pulses per byte (40_bus_encoder.md R88). -/
def pulsesPerByte : BusWidth → Nat
  | .four => 2
  | .eight => 1

/-- An instruction byte: RS = 0, RW = 0 (30_encoding.md R74). -/
def instructionItem (b : Byte) : BusItem := { rs := false, rw := false, byte := b }

/-- A data byte: RS = 1, RW = 0 (R74). -/
def dataItem (b : Byte) : BusItem := { rs := true, rw := false, byte := b }

/-- The bytes of SetCursor(r, c), `n` spaces, SetCursor(r, c). -/
def blankItems (cfg : Config) (r : Row) (c : Column) (n : Nat) : List BusItem :=
  instructionItem (setAddressByte r c) :: (List.replicate n (dataItem cfg.space) ++ [instructionItem (setAddressByte r c)])

/-- The bytes a request that is performed in `s` puts on the bus (R74, 42_display_session.md); for init the one after its
raw nibbles. -/
def itemsOf (s : State) : Instr → List BusItem
  | .init _ => [instructionItem s.cfg.cmdClear]
  | .transmit b => [{ rs := s.lvl.rs, rw := s.lvl.rw, byte := b }]
  | .sendCommand rs _ b => [{ rs := rs, rw := false, byte := b }]
  | .setCursor r c => [instructionItem (setAddressByte r c)]
  | .writeChar b => [dataItem b]
  | .clearScreen => [instructionItem s.cfg.cmdClear]
  | .clearChar r c => blankItems s.cfg r c 1
  | .clearRow r => blankItems s.cfg r 0 15
  | .clearSection r g e => blankItems s.cfg r g (e.toNat + 1 - g.toNat)
  | .backspace =>
    match s.cursorRow, s.cursorColumn with
    | some r, some c => if c = 0 then [] else blankItems s.cfg r (c - 1) 1
    | _, _ => []
  | .shiftCursorRight => [instructionItem s.cfg.cmdShiftRight]
  | .shiftCursorLeft => [instructionItem s.cfg.cmdShiftLeft]
  | .enableCursor => [instructionItem s.cfg.cmdCursorOn]
  | .disableCursor => [instructionItem s.cfg.cmdCursorOff]

/-- The number of strobe pulses of a request performed in `s`, from R194's table. -/
def pulsesOf (s : State) (w : BusWidth) : Instr → Nat
  | .init .four => 6
  | .init .eight => 4
  | .clearChar _ _ => 3 * pulsesPerByte w
  | .clearRow _ => 17 * pulsesPerByte w
  | .clearSection _ g e => (e.toNat - g.toNat + 3) * pulsesPerByte w
  | .backspace => if s.cursorColumn = some 0 then 0 else 3 * pulsesPerByte w
  | .transmit _ => pulsesPerByte w
  | .sendCommand _ _ _ => pulsesPerByte w
  | .setCursor _ _ => pulsesPerByte w
  | .writeChar _ => pulsesPerByte w
  | .clearScreen => pulsesPerByte w
  | .shiftCursorRight => pulsesPerByte w
  | .shiftCursorLeft => pulsesPerByte w
  | .enableCursor => pulsesPerByte w
  | .disableCursor => pulsesPerByte w

/-- The number of 1 bits of a byte. -/
def popcount (b : Byte) : Nat := (List.range 8).countP fun i => b.getLsbD i

end Sys2Proof.Machine
end

