-- ==== Sys2Proof/Certificates/Slice0/Obligations.lean ====
section
/-! DEFINITION. The statements for the provers. Each docstring names the rule of the spec, or the sections, it
formalises; the parameters of 00_scope.md R9 are quantified everywhere, as parts of the state or as `cfg`. -/

open Sys2Proof Sys2Proof.Machine

/-! ## Encoding -/

/-- 95_test_vectors.md V50 and V53: words of all 14 requests, written out from 30_encoding.md section 2. -/
def Obligations.WordsOfTheVectorsDecode : Prop :=
  decode 0b0000000000000000#16 = .ok (.init .four) ∧
  decode 0b0000000000000001#16 = .ok (.init .eight) ∧
  decode 0b0001000010100101#16 = .ok (.transmit 0xA5) ∧
  decode 0b0010001001000001#16 = .ok (.sendCommand true false 0x41) ∧
  decode 0b0011000100000011#16 = .ok (.setCursor 1 3) ∧
  decode 0b0100000001001000#16 = .ok (.writeChar 0x48) ∧
  decode 0b0101000000000000#16 = .ok .clearScreen ∧
  decode 0b0110000100001111#16 = .ok (.clearChar 1 15) ∧
  decode 0b0111000100000000#16 = .ok (.clearRow 1) ∧
  decode 0b1000000000110111#16 = .ok (.clearSection 0 3 7) ∧
  decode 0b1001000000000000#16 = .ok .backspace ∧
  decode 0b1010000000000000#16 = .ok .shiftCursorRight ∧
  decode 0b1011000000000000#16 = .ok .shiftCursorLeft ∧
  decode 0b1100000000000000#16 = .ok .enableCursor ∧
  decode 0b1101000000000000#16 = .ok .disableCursor

/-- 30_encoding.md sections 1, 2 and 4: no bit of an encoding is dropped. Every instruction is well formed, since its
fields have the encoding's widths. -/
def Obligations.DecodeOfEncodeIsTheRequest : Prop :=
  ∀ i : Instr, i.wellFormed = true ∧ decode (encode i) = .ok i

/-- 30_encoding.md section 2: a word that decodes is the encoding of what it decodes to. -/
def Obligations.EncodeOfDecodeIsTheWord : Prop :=
  ∀ (req : Word) (i : Instr), decode req = .ok i → encode i = req

/-- 30_encoding.md section 2 (the decoder is total, and no word matches two rows): at most one row of the table matches a
word, and the decoder accepts the word exactly when one does. -/
def Obligations.NoWordMatchesTwoRows : Prop :=
  ∀ req : Word,
    opcodeTable.countP (fun row => decide (req &&& row.mask = row.matchBits)) ≤ 1 ∧
    ((∃ i, decode req = .ok i) ↔ opcodeTable.countP (fun row => decide (req &&& row.mask = row.matchBits)) = 1)

/-! ## The step -/

/-- 30_encoding.md section 3: a block that is not halted takes the word on offer and performs what it decodes to. That the
taken word leaves `pending` and that `position` counts it is the model's form of the request stream (log 1, log 2). -/
def Obligations.StepPerformsTheDecodedRequest : Prop :=
  ∀ (s : State) (req : Word) (rest : List Word) (i : Instr), Offered s req rest → decode req = .ok i →
    step s = exec i { s with pending := rest, position := s.position + 1 }

/-- 30_encoding.md R64: a word with a valid opcode and a non-zero reserved bit raises ReservedRequest and emits nothing, in
either phase. So does every word whose opcode is 0xE or 0xF (30_encoding.md section 2). -/
def Obligations.ReservedWordsRaiseReservedRequest : Prop :=
  ∀ (s : State) (req : Word) (rest : List Word), Offered s req rest →
    (∀ row, opcodeTable[(req.extractLsb' 12 4).toNat]? = some row → req &&& row.mask ≠ row.matchBits) →
    ∃ t, step s = .next t ∧ RecordsOnly s t .reservedRequest req

/-- 60_exceptions.md R161: the kinds are tested in the fixed order and the first that applies is raised; a word that passes
every test raises none. -/
def Obligations.CheckOrderDecidesTheRecordedKind : Prop :=
  ∀ (s : State) (req : Word) (rest : List Word), Offered s req rest →
    let op := req.extractLsb' 12 4
    let reserved := op = 0xE ∨ op = 0xF
    let clean := ∀ row, opcodeTable[op.toNat]? = some row → req &&& row.mask = row.matchBits
    let raises := fun kind => ∃ t, step s = .next t ∧ RecordsOnly s t kind req
    (reserved → raises .reservedRequest) ∧
    (¬ reserved → ¬ clean → raises .reservedRequest) ∧
    (¬ reserved → clean → op = 0x0 → s.phase = .ready → raises .protocolSequenceViolation) ∧
    (¬ reserved → clean → op ≠ 0x0 → s.phase = .uninit → raises .protocolSequenceViolation) ∧
    (¬ reserved → clean → s.phase = .ready → op = 0x2 → req.getLsbD 8 = true → raises .readNotSupported) ∧
    (¬ reserved → clean → s.phase = .ready → op = 0x8 →
      (req.extractLsb' 4 4).toNat > (req.extractLsb' 0 4).toNat → raises .invalidCoordinate) ∧
    (¬ reserved → clean → (op = 0x0 ↔ s.phase = .uninit) → (op = 0x2 → req.getLsbD 8 = false) →
      (op = 0x8 → (req.extractLsb' 4 4).toNat ≤ (req.extractLsb' 0 4).toNat) →
      ∀ t, step s = .next t → t.fault = none)

/-- 60_exceptions.md R162: a request that faults does only `fault <- (kind, req)`, with req the word that raised it, and
every later request is left unperformed: the block has no step any more. -/
def Obligations.FaultEntryWritesOnlyTheRecord : Prop :=
  ∀ (s t : State) (r : FaultRecord), s.fault = none → step s = .next t → t.fault = some r →
    (∃ rest, s.pending = r.req :: rest) ∧ RecordsOnly s t r.kind r.req ∧ (∀ u, step t ≠ .next u)

/-- 60_exceptions.md section 2 (R163): while a fault is recorded the block has no step. That the step then answers the stop
`halted` is the model's form of it (log 4). -/
def Obligations.HaltedBlockHasNoStep : Prop :=
  ∀ (s : State) (r : FaultRecord), s.fault = some r →
    step s = .fault (.halted r.kind r.req) ∧ ∀ n t, Sys2Proof.core.run (n + 1) s ≠ .next t

/-- 20_memory.md section 5 (one request at a time) and 10_state.md section 2 (the position in the stream): a step takes exactly
the word on offer. The fields `pending` and `position` are the model's form of the request stream (log 1, log 2). -/
def Obligations.StepTakesOneWord : Prop :=
  ∀ (s t : State) (req : Word) (rest : List Word), s.pending = req :: rest → step s = .next t →
    t.pending = rest ∧ t.position = s.position + 1

/-- 10_state.md section 1 (configuration is not state): no request changes a parameter. The clauses on `pending` and `position`,
that a request's own effect leaves the request port alone, are the model's form of the request stream (log 1, log 2). -/
def Obligations.RequestsLeaveParametersAndPortAlone : Prop :=
  ∀ (i : Instr) (s t : State), exec i s = .next t →
    t.cfg = s.cfg ∧ t.pending = s.pending ∧ t.position = s.position

/-! ## Power-on and invariants -/

/-- 10_state.md R36: the power-on values, for every level map and every other parameter. -/
def Obligations.PowerOnValues : Prop :=
  ∀ cfg : Config,
    (State.powerOn cfg).phase = .uninit ∧ (State.powerOn cfg).fault = none ∧ (State.powerOn cfg).busWidth = none ∧
    (State.powerOn cfg).cursorRow = none ∧ (State.powerOn cfg).cursorColumn = none ∧
    (∀ l, (State.powerOn cfg).lvl.get l = cfg.lineResetLevel.get l) ∧ (State.powerOn cfg).H = []

/-- 10_state.md sections 1 and 5: the invariants hold at power-on, for all legal parameters. -/
def Obligations.PowerOnMeetsTheInvariants : Prop :=
  ∀ cfg : Config, cfg.wellFormed = true → Inv (State.powerOn cfg)

/-- 10_state.md section 5, 41_command_protocol.md section 4, 40_bus_encoder.md section 1: every step keeps them. -/
def Obligations.StepKeepsTheInvariants : Prop :=
  ∀ s t : State, Inv s → step s = .next t → Inv t

/-- 10_state.md sections 1 and 5: a value that an element does not hold is never read, and a block that meets the
invariants and is not halted always has a step. With no word on offer that step is the model's idle step (log 3). -/
def Obligations.BlockStepsUnlessHalted : Prop :=
  ∀ s : State, Inv s → s.fault = none → ∃ t, step s = .next t

/-- 10_state.md R20: UNINIT at power-on; init sets READY; nothing but init moves the phase, and nothing sets it back. -/
def Obligations.PhaseMovesOnlyByInit : Prop :=
  (∀ cfg, (State.powerOn cfg).phase = .uninit) ∧
  (∀ (w : BusWidth) (s : State), AwaitingInit s → ∃ t, exec (.init w) s = .next t ∧ t.phase = .ready) ∧
  (∀ (i : Instr) (s t : State), (∀ w, i ≠ .init w) → exec i s = .next t → t.phase = s.phase) ∧
  (∀ s t : State, step s = .next t → s.phase = .ready → t.phase = .ready)

/-- 10_state.md R22: no value at power-on, written by init from its width and by nothing after that, and never read while
it holds no value. -/
def Obligations.BusWidthIsWrittenOnce : Prop :=
  (∀ cfg, (State.powerOn cfg).busWidth = none) ∧
  (∀ (w : BusWidth) (s : State), AwaitingInit s → ∃ t, exec (.init w) s = .next t ∧ t.busWidth = some w) ∧
  (∀ (i : Instr) (s t : State), (∀ w, i ≠ .init w) → exec i s = .next t → t.busWidth = s.busWidth) ∧
  (∀ (i : Instr) (s t : State), s.phase = .ready → exec i s = .next t → t.busWidth = s.busWidth) ∧
  (∀ s : State, Inv s → step s ≠ .fault .busWidthHoldsNoValue)

/-- 42_display_session.md section 6 and 10_state.md section 1: these requests never write the cursor cache. -/
def Obligations.CursorCacheIsKept : Prop :=
  ∀ (i : Instr) (s t : State),
    ((∃ b, i = .transmit b) ∨ (∃ rs rw b, i = .sendCommand rs rw b) ∨ (∃ b, i = .writeChar b) ∨ i = .clearScreen ∨
      i = .shiftCursorRight ∨ i = .shiftCursorLeft ∨ i = .enableCursor ∨ i = .disableCursor) →
    exec i s = .next t → t.cursorRow = s.cursorRow ∧ t.cursorColumn = s.cursorColumn

/-- 10_state.md section 1: only backspace reads the cursor cache. Whatever the cache holds, any other request does the same to
every other element, and to the cache itself either always the same write or none. -/
def Obligations.OnlyBackspaceReadsTheCursorCache : Prop :=
  ∀ (i : Instr) (s t : State), i ≠ .backspace → exec i s = .next t →
    (∀ (row : Option Row) (column : Option Column),
      exec i { s with cursorRow := row, cursorColumn := column } = .next t) ∨
    (∀ (row : Option Row) (column : Option Column),
      exec i { s with cursorRow := row, cursorColumn := column } =
        .next { t with cursorRow := row, cursorColumn := column })

/-! ## The pin history -/

/-- 10_state.md R28: empty at power-on; a step only appends to it. -/
def Obligations.HistoryOnlyGrows : Prop :=
  (∀ cfg, (State.powerOn cfg).H = []) ∧ ∀ s t : State, step s = .next t → ∃ evs, t.H = s.H ++ evs

/-- 10_state.md section 1: a line keeps its level until its next Set or Clr event, and that event gives the new level. -/
def Obligations.LineKeepsItsLevelUntilItsNextEvent : Prop :=
  ∀ s t : State, step s = .next t → ∃ evs, t.H = s.H ++ evs ∧ ∀ l : Line,
    ((∀ ev ∈ evs, ev ≠ .set l ∧ ev ≠ .clr l) → t.lvl.get l = s.lvl.get l) ∧
    (∀ before after, evs = before ++ .set l :: after → (∀ ev ∈ after, ev ≠ .set l ∧ ev ≠ .clr l) → t.lvl.get l = true) ∧
    (∀ before after, evs = before ++ .clr l :: after → (∀ ev ∈ after, ev ≠ .set l ∧ ev ≠ .clr l) → t.lvl.get l = false)

/-- 20_memory.md section 3: between a `Set(E)` and the `Clr(E)` that follows it the history has no Set or Clr of any line,
only the wait. -/
def Obligations.LevelsHoldStillDuringAPulse : Prop :=
  ∀ s t : State, Inv s → step s = .next t → ∀ before during after,
    t.H = before ++ .set .e :: (during ++ .clr .e :: after) → Event.clr .e ∉ during → during = [.wait]

/-- 10_state.md section 1: in FOUR mode no event touches D3..D0 and they keep their levels. -/
def Obligations.FourModeLeavesLowDataLinesAlone : Prop :=
  ∀ s t : State, step s = .next t → t.busWidth = some .four →
    (∃ evs, t.H = s.H ++ evs ∧ ∀ l ∈ [Line.d3, Line.d2, Line.d1, Line.d0], Event.set l ∉ evs ∧ Event.clr l ∉ evs) ∧
    t.lvl.d3 = s.lvl.d3 ∧ t.lvl.d2 = s.lvl.d2 ∧ t.lvl.d1 = s.lvl.d1 ∧ t.lvl.d0 = s.lvl.d0

/-- 70_reset_and_hazards.md sections 3 and 4: nothing but the parameter itself depends on the settle time. -/
def Obligations.HistoryDoesNotDependOnSettleTime : Prop :=
  ∀ (s t : State) (settle : Nat), step s = .next t →
    step { s with cfg := { s.cfg with tSettle := settle } } = .next { t with cfg := { t.cfg with tSettle := settle } }

/-! ## Results: the bus encoder -/

/-- 40_bus_encoder.md R83: the eight lines most significant first, each cleared and then set for a 1 bit, then one pulse; and
nothing else changes. -/
def Obligations.TransmitInEightMode : Prop :=
  ∀ (s : State) (b : Byte), ReadyWith s .eight →
    exec (.transmit b) s = .next { s with
      H := s.H ++ (driveEvents .d7 (b.getLsbD 7) ++ driveEvents .d6 (b.getLsbD 6) ++ driveEvents .d5 (b.getLsbD 5) ++
        driveEvents .d4 (b.getLsbD 4) ++ driveEvents .d3 (b.getLsbD 3) ++ driveEvents .d2 (b.getLsbD 2) ++
        driveEvents .d1 (b.getLsbD 1) ++ driveEvents .d0 (b.getLsbD 0) ++ [.set .e, .wait, .clr .e, .wait])
      lvl := { s.lvl with
        d7 := b.getLsbD 7, d6 := b.getLsbD 6, d5 := b.getLsbD 5, d4 := b.getLsbD 4,
        d3 := b.getLsbD 3, d2 := b.getLsbD 2, d1 := b.getLsbD 1, d0 := b.getLsbD 0, e := false } }

/-- 40_bus_encoder.md R84: the high nibble on D7..D4 and a pulse, then the low nibble on the same lines and a pulse; D3..D0 are
not written, and nothing else changes. -/
def Obligations.TransmitInFourMode : Prop :=
  ∀ (s : State) (b : Byte), ReadyWith s .four →
    exec (.transmit b) s = .next { s with
      H := s.H ++ (driveEvents .d7 (b.getLsbD 7) ++ driveEvents .d6 (b.getLsbD 6) ++ driveEvents .d5 (b.getLsbD 5) ++
        driveEvents .d4 (b.getLsbD 4) ++ [.set .e, .wait, .clr .e, .wait] ++
        driveEvents .d7 (b.getLsbD 3) ++ driveEvents .d6 (b.getLsbD 2) ++ driveEvents .d5 (b.getLsbD 1) ++
        driveEvents .d4 (b.getLsbD 0) ++ [.set .e, .wait, .clr .e, .wait])
      lvl := { s.lvl with
        d7 := b.getLsbD 3, d6 := b.getLsbD 2, d5 := b.getLsbD 1, d4 := b.getLsbD 0, e := false } }

/-- 20_memory.md R47: in FOUR mode a byte is two transactions on D7..D4, b[7:4] first and b[3:0] second. -/
def Obligations.FourModeSendsTheHighNibbleFirst : Prop :=
  ∀ (s : State) (b : Byte), ReadyWith s .four → ∃ t hi lo, exec (.transmit b) s = .next t ∧
    latchesFrom s.lvl (newEvents s.H t.H) = [hi, lo] ∧
    hi.data.getLsbD 7 = b.getLsbD 7 ∧ hi.data.getLsbD 6 = b.getLsbD 6 ∧
    hi.data.getLsbD 5 = b.getLsbD 5 ∧ hi.data.getLsbD 4 = b.getLsbD 4 ∧
    lo.data.getLsbD 7 = b.getLsbD 3 ∧ lo.data.getLsbD 6 = b.getLsbD 2 ∧
    lo.data.getLsbD 5 = b.getLsbD 1 ∧ lo.data.getLsbD 4 = b.getLsbD 0

/-- 40_bus_encoder.md section 5: one Transmit is `ppb` pulses, `2 * ppb` waits, 8 data-line clears, a data-line set for
each 1 bit, and `8 + popcount(b) + 4 * ppb` events in all. -/
def Obligations.TransmitEventCounts : Prop :=
  ∀ (s : State) (w : BusWidth) (b : Byte), ReadyWith s w → ∃ t, exec (.transmit b) s = .next t ∧
    pulseCount (newEvents s.H t.H) = pulsesPerByte w ∧ waitCount (newEvents s.H t.H) = 2 * pulsesPerByte w ∧
    (newEvents s.H t.H).countP (fun ev => decide (∃ l ∈ byteLines 0, ev = .clr l.1)) = 8 ∧
    (newEvents s.H t.H).countP (fun ev => decide (∃ l ∈ byteLines 0, ev = .set l.1)) = popcount b ∧
    (newEvents s.H t.H).length = 8 + popcount b + 4 * pulsesPerByte w

/-! ## Results: the command protocol -/

/-- 41_command_protocol.md section 1: RS, then RW, each cleared and then set for 1, then the byte's transmission; and nothing
else changes. -/
def Obligations.SendCommandWrites : Prop :=
  ∀ (s : State) (w : BusWidth) (rs : Level) (b : Byte), ReadyWith s w →
    exec (.sendCommand rs false b) s = .next { s with
      H := s.H ++ ((if rs then [.clr .rs, .set .rs] else [.clr .rs]) ++ [.clr .rw] ++ byteEvents w b)
      lvl := s.lvl.afterCommand w rs b }

/-- 41_command_protocol.md section 1 and 60_exceptions.md section 1: with rw = 1 the request raises ReadNotSupported before any
event, and the record holds its word. -/
def Obligations.SendCommandReadRaisesReadNotSupported : Prop :=
  ∀ (s : State) (rs : Level) (b : Byte), s.fault = none → s.phase = .ready →
    exec (.sendCommand rs true b) s = .next { s with
      fault := some
        { kind := .readNotSupported, req := (if rs then 0x2300 else 0x2100) ||| b.setWidth 16 } }

/-- 41_command_protocol.md sections 2 and 3: what init leaves, for each width: the width, READY, the drawn cursor, the reset
handshake, the enable pulse in FOUR mode, the clear instruction; and nothing else changes. -/
def Obligations.InitInitialises : Prop :=
  ∀ s : State, AwaitingInit s →
    exec (.init .four) s = .next { s with
      phase := .ready
      busWidth := some .four
      cursorRow := some s.cfg.initCursorRow
      cursorColumn := some s.cfg.initCursorColumn
      H := s.H ++ ([.clr .rs, .clr .d7, .clr .d6, .clr .d5, .set .d5, .clr .d4, .set .d4,
        .set .e, .wait, .clr .e, .wait, .set .e, .wait, .clr .e, .wait, .set .e, .wait, .clr .e, .wait,
        .clr .rs, .clr .d7, .clr .d6, .clr .d5, .set .d5, .clr .d4, .set .e, .wait, .clr .e, .wait,
        .clr .rs, .clr .rw] ++ byteEvents .four s.cfg.cmdClear)
      lvl := { s.lvl with
        rs := false, rw := false, e := false,
        d7 := s.cfg.cmdClear.getLsbD 3, d6 := s.cfg.cmdClear.getLsbD 2,
        d5 := s.cfg.cmdClear.getLsbD 1, d4 := s.cfg.cmdClear.getLsbD 0 } } ∧
    exec (.init .eight) s = .next { s with
      phase := .ready
      busWidth := some .eight
      cursorRow := some s.cfg.initCursorRow
      cursorColumn := some s.cfg.initCursorColumn
      H := s.H ++ ([.clr .rs, .clr .d7, .clr .d6, .clr .d5, .set .d5, .clr .d4, .set .d4,
        .set .e, .wait, .clr .e, .wait, .set .e, .wait, .clr .e, .wait, .set .e, .wait, .clr .e, .wait,
        .clr .rs, .clr .rw] ++ byteEvents .eight s.cfg.cmdClear)
      lvl := {
        rs := false, rw := false, e := false,
        d7 := s.cfg.cmdClear.getLsbD 7, d6 := s.cfg.cmdClear.getLsbD 6,
        d5 := s.cfg.cmdClear.getLsbD 5, d4 := s.cfg.cmdClear.getLsbD 4,
        d3 := s.cfg.cmdClear.getLsbD 3, d2 := s.cfg.cmdClear.getLsbD 2,
        d1 := s.cfg.cmdClear.getLsbD 1, d0 := s.cfg.cmdClear.getLsbD 0 } }

/-- 41_command_protocol.md section 3 (init's latches): the raw nibbles 0011 three times, and 0010 in FOUR mode, with RW and
D3..D0 at the levels they had, then the clear instruction with RW low. -/
def Obligations.InitLatches : Prop :=
  ∀ (s t : State) (w : BusWidth), AwaitingInit s → exec (.init w) s = .next t →
    let low := lowNibble s.lvl.dataByte
    let raw := fun n : Nibble => { rs := false, rw := s.lvl.rw, data := n ++ low : Latch }
    latchesFrom s.lvl (newEvents s.H t.H) =
      match w with
      | .four => [raw 0b0011, raw 0b0011, raw 0b0011, raw 0b0010,
          { rs := false, rw := false, data := highNibble s.cfg.cmdClear ++ low },
          { rs := false, rw := false, data := lowNibble s.cfg.cmdClear ++ low }]
      | .eight => [raw 0b0011, raw 0b0011, raw 0b0011, { rs := false, rw := false, data := s.cfg.cmdClear }]

/-- 60_exceptions.md section 1 (ProtocolSequenceViolation): a request other than init while UNINIT, and init while READY, are
recorded with their word and do nothing else. -/
def Obligations.RequestsOutOfSequenceRaise : Prop :=
  (∀ (i : Instr) (s : State), AwaitingInit s → (∀ w, i ≠ .init w) →
    exec i s = .next { s with fault := some { kind := .protocolSequenceViolation, req := encode i } }) ∧
  (∀ (w : BusWidth) (s : State), s.fault = none → s.phase = .ready →
    exec (.init w) s = .next { s with fault := some { kind := .protocolSequenceViolation, req := encode (.init w) } })

/-! ## Results: the display session -/

/-- 10_state.md R27: `ADDRESS_TABLE[0][c] = 0x00 + c` and `ADDRESS_TABLE[1][c] = 0x40 + c`. -/
def Obligations.AddressTableEntries : Prop :=
  ∀ c : Column, (ddramAddress 0 c).toNat = 0x00 + c.toNat ∧ (ddramAddress 1 c).toNat = 0x40 + c.toNat

/-- 20_memory.md R42: bit 7 of the set-address byte is 1, bits 6:0 hold the address, the rows give 0x80..0x8F and
0xC0..0xCF, and SetCursor, through which every request sends it, sends it with RS = 0. -/
def Obligations.SetAddressByteIsSentAsAnInstruction : Prop :=
  (∀ (r : Row) (c : Column), (setAddressByte r c).getLsbD 7 = true ∧ (setAddressByte r c).extractLsb' 0 7 = ddramAddress r c) ∧
  (∀ c : Column, (setAddressByte 0 c).toNat = 0x80 + c.toNat ∧ (setAddressByte 1 c).toNat = 0xC0 + c.toNat) ∧
  (∀ (s : State) (w : BusWidth) (r : Row) (c : Column),
    readBytes w (latchesFrom s.lvl (newEvents s.H (setCursor w r c s).H)) =
      [{ rs := false, rw := false, byte := setAddressByte r c }]) ∧
  (∀ (s : State) (w : BusWidth) (r : Row) (c : Column), ReadyWith s w →
    exec (.setCursor r c) s = .next (setCursor w r c s))

/-- 42_display_session.md section 1: set_cursor records the position in the cache and sends `0x80 | (0x40 * r + c)` as an
instruction; and nothing else changes. -/
def Obligations.SetCursorMovesTheCursor : Prop :=
  ∀ (s : State) (w : BusWidth) (r : Row) (c : Column), ReadyWith s w →
    exec (.setCursor r c) s = .next { s with
      cursorRow := some r
      cursorColumn := some c
      H := s.H ++ commandEvents w false false (BitVec.ofNat 8 (0x80 + 0x40 * r.toNat + c.toNat))
      lvl := s.lvl.afterCommand w false (BitVec.ofNat 8 (0x80 + 0x40 * r.toNat + c.toNat)) }

/-- 42_display_session.md section 2: write_char sends its byte with RS = 1; the cache and everything else stays. -/
def Obligations.WriteCharSendsData : Prop :=
  ∀ (s : State) (w : BusWidth) (b : Byte), ReadyWith s w →
    exec (.writeChar b) s = .next { s with
      H := s.H ++ commandEvents w true false b
      lvl := s.lvl.afterCommand w true b }

/-- 42_display_session.md sections 3 and 5: clear_screen, the shifts and the cursor requests send their one instruction byte;
the cache and everything else stays. -/
def Obligations.OneByteRequestsSendTheirInstruction : Prop :=
  ∀ (s : State) (w : BusWidth), ReadyWith s w →
    let sends := fun b : Byte => Host.Outcome.next { s with
      H := s.H ++ commandEvents w false false b
      lvl := s.lvl.afterCommand w false b }
    exec .clearScreen s = sends s.cfg.cmdClear ∧
    exec .shiftCursorRight s = sends s.cfg.cmdShiftRight ∧
    exec .shiftCursorLeft s = sends s.cfg.cmdShiftLeft ∧
    exec .enableCursor s = sends s.cfg.cmdCursorOn ∧
    exec .disableCursor s = sends s.cfg.cmdCursorOff

/-- 42_display_session.md section 3: clear_char is the set-address instruction, one space, and the same instruction again; the
cache ends at the cell; and nothing else changes. -/
def Obligations.ClearCharBlanksOneCell : Prop :=
  ∀ (s : State) (w : BusWidth) (r : Row) (c : Column), ReadyWith s w →
    exec (.clearChar r c) s = .next { s with
      cursorRow := some r
      cursorColumn := some c
      H := s.H ++ (commandEvents w false false (setAddressByte r c) ++ commandEvents w true false s.cfg.space ++
        commandEvents w false false (setAddressByte r c))
      lvl := s.lvl.afterCommand w false (setAddressByte r c) }

/-- 42_display_session.md section 3: clear_row is set-address to column 0, exactly 15 spaces, set-address to column 0; the cache
ends at (r, 0); and nothing else changes. -/
def Obligations.ClearRowWritesFifteenSpaces : Prop :=
  ∀ (s : State) (w : BusWidth) (r : Row), ReadyWith s w →
    exec (.clearRow r) s = .next { s with
      cursorRow := some r
      cursorColumn := some 0
      H := s.H ++ (commandEvents w false false (setAddressByte r 0) ++
        (List.replicate 15 (commandEvents w true false s.cfg.space)).flatten ++
        commandEvents w false false (setAddressByte r 0))
      lvl := s.lvl.afterCommand w false (setAddressByte r 0) }

/-- 42_display_session.md section 3: clear_section with g ≤ e writes e - g + 1 spaces between two set-address instructions to
column g, where the cache ends; with g > e it raises InvalidCoordinate with its word; and nothing else changes. -/
def Obligations.ClearSectionWritesItsColumns : Prop :=
  ∀ (s : State) (w : BusWidth) (r : Row) (g e : Column), ReadyWith s w →
    (g.toNat ≤ e.toNat →
      exec (.clearSection r g e) s = .next { s with
        cursorRow := some r
        cursorColumn := some g
        H := s.H ++ (commandEvents w false false (setAddressByte r g) ++
          (List.replicate (e.toNat - g.toNat + 1) (commandEvents w true false s.cfg.space)).flatten ++
          commandEvents w false false (setAddressByte r g))
        lvl := s.lvl.afterCommand w false (setAddressByte r g) }) ∧
    (g.toNat > e.toNat →
      exec (.clearSection r g e) s = .next { s with
        fault := some
          { kind := .invalidCoordinate
            req := BitVec.ofNat 16 (0x8000 + 0x100 * r.toNat + 0x10 * g.toNat + e.toNat) } })

/-- 42_display_session.md section 4: at column 0 backspace changes nothing; at column c > 0 it is set-address to (r, c - 1), one
space and the same set-address, and the cache ends there; and nothing else changes. -/
def Obligations.BackspaceBlanksTheCellToTheLeft : Prop :=
  ∀ (s : State) (w : BusWidth) (r : Row) (c : Column), ReadyWith s w → s.cursorRow = some r → s.cursorColumn = some c →
    (c = 0 → exec .backspace s = .next s) ∧
    (∀ c' : Column, c.toNat = c'.toNat + 1 →
      exec .backspace s = .next { s with
        cursorColumn := some c'
        H := s.H ++ (commandEvents w false false (setAddressByte r c') ++ commandEvents w true false s.cfg.space ++
          commandEvents w false false (setAddressByte r c'))
        lvl := s.lvl.afterCommand w false (setAddressByte r c') })

/-! ## What the bus carries -/

/-- 30_encoding.md section 5 (formats and framing) with 42_display_session.md: reading the latches of a performed request back
into bytes, two latches a byte in FOUR mode, gives exactly the bytes of its operation, in order, with their RS and RW.
For init they stand after its raw nibbles. -/
def Obligations.LatchesReadBackAsTheBytesSent : Prop :=
  (∀ (i : Instr) (s t : State) (w : BusWidth), ReadyWith s w → exec i s = .next t → t.fault = none →
    readBytes w (latchesFrom s.lvl (newEvents s.H t.H)) = itemsOf s i) ∧
  (∀ (s t : State) (w : BusWidth), AwaitingInit s → exec (.init w) s = .next t →
    readBytes w ((latchesFrom s.lvl (newEvents s.H t.H)).drop (rawLatchCount w)) = itemsOf s (.init w))

/-- 70_reset_and_hazards.md section 4 (the table of pulses and times): the pulses of every request that completes, two waits to
a pulse, the modelled time; and a request that faults emits nothing. -/
def Obligations.PulsesAndTimeOfEachRequest : Prop :=
  ∀ (i : Instr) (s t : State) (w : BusWidth), (ReadyWith s w ∨ (AwaitingInit s ∧ i = .init w)) → exec i s = .next t →
    (t.fault = none →
      pulseCount (newEvents s.H t.H) = pulsesOf s w i ∧
      waitCount (newEvents s.H t.H) = 2 * pulsesOf s w i ∧
      duration s.cfg (newEvents s.H t.H) = 2 * pulsesOf s w i * s.cfg.tSettle) ∧
    (t.fault ≠ none → newEvents s.H t.H = [])

/-- 70_reset_and_hazards.md section 4: every request ends after a bounded number of events, performed or faulting, before init
and after it; `w` is the width the block has, or gets from init. The longest is clear_section over all 16 columns, 18 bytes
(its table and vector V40), not clear_row. -/
def Obligations.EveryRequestIsBounded : Prop :=
  ∀ (i : Instr) (s t : State) (w : BusWidth),
    (ReadyWith s w ∨ (AwaitingInit s ∧ ∀ w', i = .init w' → w' = w)) → exec i s = .next t →
    pulseCount (newEvents s.H t.H) ≤ 18 * pulsesPerByte w ∧
    (newEvents s.H t.H).length ≤ 18 * (19 + 4 * pulsesPerByte w)

/-- 20_memory.md section 3: every request but init and backspace is idempotent in the block's own state. Repeated, it appends
the same events and leaves phase, fault, width, cache and levels as they were after the first. -/
def Obligations.RequestsAreIdempotent : Prop :=
  ∀ (i : Instr) (s t : State), i ≠ .backspace → (∀ w, i ≠ .init w) → exec i s = .next t → t.fault = none →
    ∃ u, exec i t = .next u ∧ newEvents t.H u.H = newEvents s.H t.H ∧ u.phase = t.phase ∧ u.fault = t.fault ∧
      u.busWidth = t.busWidth ∧ u.cursorRow = t.cursorRow ∧ u.cursorColumn = t.cursorColumn ∧ u.lvl = t.lvl

/-- 30_encoding.md section 4 (equivalences): write_char is send_command with RS = 1; set_cursor is send_command of its byte but
for the cache; clear_char is set_cursor, write_char of the space, set_cursor. -/
def Obligations.EquivalentRequests : Prop :=
  (∀ (s : State) (b : Byte), s.phase = .ready → exec (.writeChar b) s = exec (.sendCommand true false b) s) ∧
  (∀ (s : State) (w : BusWidth) (r : Row) (c : Column), ReadyWith s w →
    ∃ t, exec (.sendCommand false false (0x80 ||| (ddramAddress r c).setWidth 8)) s = .next t ∧
      exec (.setCursor r c) s = .next { t with cursorRow := some r, cursorColumn := some c }) ∧
  (∀ (s : State) (w : BusWidth) (r : Row) (c : Column), ReadyWith s w →
    ∃ a b t, exec (.setCursor r c) s = .next a ∧ exec (.writeChar s.cfg.space) a = .next b ∧
      exec (.setCursor r c) b = .next t ∧ exec (.clearChar r c) s = .next t)

/-! ## The assembler and write_string -/

/-- 30_encoding.md R71: the word of each line, whose operands fit. -/
def Obligations.AssembledWordsFollowTheFormulas : Prop :=
  ∀ b s d r c g e : Nat, b ≤ 0xFF → s ≤ 1 → d ≤ 1 → r ≤ 1 → c ≤ 15 → g ≤ 15 → e ≤ 15 →
    assemble (.init .four) = some [0x0000] ∧
    assemble (.init .eight) = some [0x0001] ∧
    assemble (.transmit b) = some [BitVec.ofNat 16 (0x1000 ||| b)] ∧
    assemble (.sendCommand s d b) = some [BitVec.ofNat 16 (0x2000 ||| s <<< 9 ||| d <<< 8 ||| b)] ∧
    assemble (.setCursor r c) = some [BitVec.ofNat 16 (0x3000 ||| r <<< 8 ||| c)] ∧
    assemble (.writeChar b) = some [BitVec.ofNat 16 (0x4000 ||| b)] ∧
    assemble .clearScreen = some [0x5000] ∧
    assemble (.clearChar r c) = some [BitVec.ofNat 16 (0x6000 ||| r <<< 8 ||| c)] ∧
    assemble (.clearRow r) = some [BitVec.ofNat 16 (0x7000 ||| r <<< 8)] ∧
    assemble (.clearSection r g e) = some [BitVec.ofNat 16 (0x8000 ||| r <<< 8 ||| g <<< 4 ||| e)] ∧
    assemble .backspace = some [0x9000] ∧
    assemble .shiftCursorRight = some [0xA000] ∧
    assemble .shiftCursorLeft = some [0xB000] ∧
    assemble .enableCursor = some [0xC000] ∧
    assemble .disableCursor = some [0xD000]

/-- 30_encoding.md R72 (write_string): n write_char words in index order, none for the empty string, no terminating byte and no length. -/
def Obligations.WriteStringExpands : Prop :=
  assemble (.writeString []) = some [] ∧
  ∀ codes : List Nat, (∀ c ∈ codes, c ≤ 0xFF) →
    assemble (.writeString codes) = some (codes.map fun c => BitVec.ofNat 16 (0x4000 ||| c))

/-- 42_display_session.md section 2 (write_string): n steps from READY perform all n writes: n data bytes in order, the cache
unchanged, RS = 1 if n > 0, and nothing at all for n = 0. That the offered words stand in `pending`, and that it is empty after
them, is the model's form of the request stream (log 1). -/
def Obligations.WriteStringWritesItsBytesInOrder : Prop :=
  ∀ (s : State) (w : BusWidth) (codes : List Byte), ReadyWith s w → s.pending = [] →
    ∃ t, Completes codes.length (s.offer (codes.map fun b => encode (.writeChar b))) t ∧
      t.H = s.H ++ codes.flatMap (fun b => commandEvents w true false b) ∧
      readBytes w (latchesFrom s.lvl (newEvents s.H t.H)) = codes.map dataItem ∧
      t.cursorRow = s.cursorRow ∧ t.cursorColumn = s.cursorColumn ∧ t.phase = .ready ∧ t.busWidth = some w ∧
      t.pending = [] ∧ (codes ≠ [] → t.lvl.rs = true) ∧ (codes = [] → t = s)
end

