-- ==== Sys2Proof/Laws/State.lean ====
section
/-! SUPPORT. What each update of the state does to each field: one lemma per field and update. -/

namespace Sys2Proof.Machine

/-! ## `takeRequest` -/

@[simp] theorem State.takeRequest_phase (s : State) : (s.takeRequest).phase = s.phase := rfl
@[simp] theorem State.takeRequest_fault (s : State) : (s.takeRequest).fault = s.fault := rfl
@[simp] theorem State.takeRequest_busWidth (s : State) : (s.takeRequest).busWidth = s.busWidth := rfl
@[simp] theorem State.takeRequest_cursorRow (s : State) : (s.takeRequest).cursorRow = s.cursorRow := rfl
@[simp] theorem State.takeRequest_cursorColumn (s : State) : (s.takeRequest).cursorColumn = s.cursorColumn := rfl
@[simp] theorem State.takeRequest_lvl (s : State) : (s.takeRequest).lvl = s.lvl := rfl
@[simp] theorem State.takeRequest_H (s : State) : (s.takeRequest).H = s.H := rfl
@[simp] theorem State.takeRequest_position (s : State) : (s.takeRequest).position = s.position + 1 := rfl
@[simp] theorem State.takeRequest_pending (s : State) : (s.takeRequest).pending = s.pending.tail := rfl
@[simp] theorem State.takeRequest_cfg (s : State) : (s.takeRequest).cfg = s.cfg := rfl

/-! ## `offer` -/

@[simp] theorem State.offer_phase (s : State) (ws : List Word) : (s.offer ws).phase = s.phase := rfl
@[simp] theorem State.offer_fault (s : State) (ws : List Word) : (s.offer ws).fault = s.fault := rfl
@[simp] theorem State.offer_busWidth (s : State) (ws : List Word) : (s.offer ws).busWidth = s.busWidth := rfl
@[simp] theorem State.offer_cursorRow (s : State) (ws : List Word) : (s.offer ws).cursorRow = s.cursorRow := rfl
@[simp] theorem State.offer_cursorColumn (s : State) (ws : List Word) : (s.offer ws).cursorColumn = s.cursorColumn := rfl
@[simp] theorem State.offer_lvl (s : State) (ws : List Word) : (s.offer ws).lvl = s.lvl := rfl
@[simp] theorem State.offer_H (s : State) (ws : List Word) : (s.offer ws).H = s.H := rfl
@[simp] theorem State.offer_position (s : State) (ws : List Word) : (s.offer ws).position = s.position := rfl
@[simp] theorem State.offer_pending (s : State) (ws : List Word) : (s.offer ws).pending = s.pending ++ ws := rfl
@[simp] theorem State.offer_cfg (s : State) (ws : List Word) : (s.offer ws).cfg = s.cfg := rfl

/-! ## `raise` -/

@[simp] theorem State.raise_phase (s : State) (kind : FaultKind) (req : Word) : (s.raise kind req).phase = s.phase := rfl
@[simp] theorem State.raise_fault (s : State) (kind : FaultKind) (req : Word) : (s.raise kind req).fault = some { kind := kind, req := req } := rfl
@[simp] theorem State.raise_busWidth (s : State) (kind : FaultKind) (req : Word) : (s.raise kind req).busWidth = s.busWidth := rfl
@[simp] theorem State.raise_cursorRow (s : State) (kind : FaultKind) (req : Word) : (s.raise kind req).cursorRow = s.cursorRow := rfl
@[simp] theorem State.raise_cursorColumn (s : State) (kind : FaultKind) (req : Word) : (s.raise kind req).cursorColumn = s.cursorColumn := rfl
@[simp] theorem State.raise_lvl (s : State) (kind : FaultKind) (req : Word) : (s.raise kind req).lvl = s.lvl := rfl
@[simp] theorem State.raise_H (s : State) (kind : FaultKind) (req : Word) : (s.raise kind req).H = s.H := rfl
@[simp] theorem State.raise_position (s : State) (kind : FaultKind) (req : Word) : (s.raise kind req).position = s.position := rfl
@[simp] theorem State.raise_pending (s : State) (kind : FaultKind) (req : Word) : (s.raise kind req).pending = s.pending := rfl
@[simp] theorem State.raise_cfg (s : State) (kind : FaultKind) (req : Word) : (s.raise kind req).cfg = s.cfg := rfl

/-! ## `setPhase` -/

@[simp] theorem State.setPhase_phase (s : State) (p : Phase) : (s.setPhase p).phase = p := rfl
@[simp] theorem State.setPhase_fault (s : State) (p : Phase) : (s.setPhase p).fault = s.fault := rfl
@[simp] theorem State.setPhase_busWidth (s : State) (p : Phase) : (s.setPhase p).busWidth = s.busWidth := rfl
@[simp] theorem State.setPhase_cursorRow (s : State) (p : Phase) : (s.setPhase p).cursorRow = s.cursorRow := rfl
@[simp] theorem State.setPhase_cursorColumn (s : State) (p : Phase) : (s.setPhase p).cursorColumn = s.cursorColumn := rfl
@[simp] theorem State.setPhase_lvl (s : State) (p : Phase) : (s.setPhase p).lvl = s.lvl := rfl
@[simp] theorem State.setPhase_H (s : State) (p : Phase) : (s.setPhase p).H = s.H := rfl
@[simp] theorem State.setPhase_position (s : State) (p : Phase) : (s.setPhase p).position = s.position := rfl
@[simp] theorem State.setPhase_pending (s : State) (p : Phase) : (s.setPhase p).pending = s.pending := rfl
@[simp] theorem State.setPhase_cfg (s : State) (p : Phase) : (s.setPhase p).cfg = s.cfg := rfl

/-! ## `setBusWidth` -/

@[simp] theorem State.setBusWidth_phase (s : State) (w : BusWidth) : (s.setBusWidth w).phase = s.phase := rfl
@[simp] theorem State.setBusWidth_fault (s : State) (w : BusWidth) : (s.setBusWidth w).fault = s.fault := rfl
@[simp] theorem State.setBusWidth_busWidth (s : State) (w : BusWidth) : (s.setBusWidth w).busWidth = some w := rfl
@[simp] theorem State.setBusWidth_cursorRow (s : State) (w : BusWidth) : (s.setBusWidth w).cursorRow = s.cursorRow := rfl
@[simp] theorem State.setBusWidth_cursorColumn (s : State) (w : BusWidth) : (s.setBusWidth w).cursorColumn = s.cursorColumn := rfl
@[simp] theorem State.setBusWidth_lvl (s : State) (w : BusWidth) : (s.setBusWidth w).lvl = s.lvl := rfl
@[simp] theorem State.setBusWidth_H (s : State) (w : BusWidth) : (s.setBusWidth w).H = s.H := rfl
@[simp] theorem State.setBusWidth_position (s : State) (w : BusWidth) : (s.setBusWidth w).position = s.position := rfl
@[simp] theorem State.setBusWidth_pending (s : State) (w : BusWidth) : (s.setBusWidth w).pending = s.pending := rfl
@[simp] theorem State.setBusWidth_cfg (s : State) (w : BusWidth) : (s.setBusWidth w).cfg = s.cfg := rfl

/-! ## `setCursorCache` -/

@[simp] theorem State.setCursorCache_phase (s : State) (r : Row) (c : Column) : (s.setCursorCache r c).phase = s.phase := rfl
@[simp] theorem State.setCursorCache_fault (s : State) (r : Row) (c : Column) : (s.setCursorCache r c).fault = s.fault := rfl
@[simp] theorem State.setCursorCache_busWidth (s : State) (r : Row) (c : Column) : (s.setCursorCache r c).busWidth = s.busWidth := rfl
@[simp] theorem State.setCursorCache_cursorRow (s : State) (r : Row) (c : Column) : (s.setCursorCache r c).cursorRow = some r := rfl
@[simp] theorem State.setCursorCache_cursorColumn (s : State) (r : Row) (c : Column) : (s.setCursorCache r c).cursorColumn = some c := rfl
@[simp] theorem State.setCursorCache_lvl (s : State) (r : Row) (c : Column) : (s.setCursorCache r c).lvl = s.lvl := rfl
@[simp] theorem State.setCursorCache_H (s : State) (r : Row) (c : Column) : (s.setCursorCache r c).H = s.H := rfl
@[simp] theorem State.setCursorCache_position (s : State) (r : Row) (c : Column) : (s.setCursorCache r c).position = s.position := rfl
@[simp] theorem State.setCursorCache_pending (s : State) (r : Row) (c : Column) : (s.setCursorCache r c).pending = s.pending := rfl
@[simp] theorem State.setCursorCache_cfg (s : State) (r : Row) (c : Column) : (s.setCursorCache r c).cfg = s.cfg := rfl

/-! ## `emit` -/

@[simp] theorem State.emit_phase (s : State) (ev : Event) : (s.emit ev).phase = s.phase := rfl
@[simp] theorem State.emit_fault (s : State) (ev : Event) : (s.emit ev).fault = s.fault := rfl
@[simp] theorem State.emit_busWidth (s : State) (ev : Event) : (s.emit ev).busWidth = s.busWidth := rfl
@[simp] theorem State.emit_cursorRow (s : State) (ev : Event) : (s.emit ev).cursorRow = s.cursorRow := rfl
@[simp] theorem State.emit_cursorColumn (s : State) (ev : Event) : (s.emit ev).cursorColumn = s.cursorColumn := rfl
@[simp] theorem State.emit_lvl (s : State) (ev : Event) : (s.emit ev).lvl = applyEvent s.lvl ev := rfl
@[simp] theorem State.emit_H (s : State) (ev : Event) : (s.emit ev).H = s.H ++ [ev] := rfl
@[simp] theorem State.emit_position (s : State) (ev : Event) : (s.emit ev).position = s.position := rfl
@[simp] theorem State.emit_pending (s : State) (ev : Event) : (s.emit ev).pending = s.pending := rfl
@[simp] theorem State.emit_cfg (s : State) (ev : Event) : (s.emit ev).cfg = s.cfg := rfl

/-! ## `emitAll` -/

@[simp] theorem State.emitAll_phase (s : State) (evs : List Event) : (s.emitAll evs).phase = s.phase := rfl
@[simp] theorem State.emitAll_fault (s : State) (evs : List Event) : (s.emitAll evs).fault = s.fault := rfl
@[simp] theorem State.emitAll_busWidth (s : State) (evs : List Event) : (s.emitAll evs).busWidth = s.busWidth := rfl
@[simp] theorem State.emitAll_cursorRow (s : State) (evs : List Event) : (s.emitAll evs).cursorRow = s.cursorRow := rfl
@[simp] theorem State.emitAll_cursorColumn (s : State) (evs : List Event) : (s.emitAll evs).cursorColumn = s.cursorColumn := rfl
@[simp] theorem State.emitAll_lvl (s : State) (evs : List Event) : (s.emitAll evs).lvl = replay s.lvl evs := rfl
@[simp] theorem State.emitAll_H (s : State) (evs : List Event) : (s.emitAll evs).H = s.H ++ evs := rfl
@[simp] theorem State.emitAll_position (s : State) (evs : List Event) : (s.emitAll evs).position = s.position := rfl
@[simp] theorem State.emitAll_pending (s : State) (evs : List Event) : (s.emitAll evs).pending = s.pending := rfl
@[simp] theorem State.emitAll_cfg (s : State) (evs : List Event) : (s.emitAll evs).cfg = s.cfg := rfl

end Sys2Proof.Machine
end

