-- ==== Sys2Proof/Laws/Ops.lean ====
section
/-! SUPPORT. One equation for each shared procedure: it emits one list of events, and changes nothing else but what
the equation names. And the levels those lists leave. -/

namespace Sys2Proof.Machine

/-! ## Lists of events -/

@[simp] theorem replay_nil (lv : Levels) : replay lv [] = lv := rfl

@[simp] theorem replay_cons (lv : Levels) (ev : Event) (evs : List Event) :
    replay lv (ev :: evs) = replay (applyEvent lv ev) evs := rfl

theorem replay_append (lv : Levels) (a b : List Event) : replay lv (a ++ b) = replay (replay lv a) b :=
  List.foldl_append

@[simp] theorem State.emitAll_nil (s : State) : s.emitAll [] = s := by
  simp [State.emitAll]

theorem State.emit_eq_emitAll (s : State) (ev : Event) : s.emit ev = s.emitAll [ev] := rfl

@[simp] theorem State.emitAll_emitAll (s : State) (a b : List Event) :
    (s.emitAll a).emitAll b = s.emitAll (a ++ b) := by
  simp [State.emitAll, replay_append]

@[simp] theorem State.setCursorCache_emitAll (s : State) (r : Row) (c : Column) (evs : List Event) :
    (s.emitAll evs).setCursorCache r c = (s.setCursorCache r c).emitAll evs := rfl

@[simp] theorem State.setCursorCache_setCursorCache (s : State) (r r' : Row) (c c' : Column) :
    (s.setCursorCache r c).setCursorCache r' c' = s.setCursorCache r' c' := rfl

@[simp] theorem State.setPhase_emitAll (s : State) (p : Phase) (evs : List Event) :
    (s.emitAll evs).setPhase p = (s.setPhase p).emitAll evs := rfl

@[simp] theorem State.setPhase_setCursorCache (s : State) (r : Row) (c : Column) (p : Phase) :
    (s.setPhase p).setCursorCache r c = (s.setCursorCache r c).setPhase p := rfl

/-! ## The bus encoder -/

theorem drive_eq (l : Line) (v : Level) (s : State) : drive l v s = s.emitAll (driveEvents l v) := by
  cases v <;> simp [drive, driveEvents, State.emit_eq_emitAll]

theorem driveLines_eq (ls : List (Line × Level)) (s : State) :
    driveLines ls s = s.emitAll (linesEvents ls) := by
  induction ls generalizing s with
  | nil => simp [driveLines, linesEvents]
  | cons p ls ih =>
    have step : driveLines (p :: ls) s = driveLines ls (drive p.1 p.2 s) := rfl
    rw [step, ih, drive_eq, State.emitAll_emitAll]
    rfl

theorem pulse_eq (s : State) : pulse s = s.emitAll pulseEvents := by
  simp [pulse, pulseEvents, State.emit_eq_emitAll]

theorem transmit_eq (w : BusWidth) (b : Byte) (s : State) : transmit w b s = s.emitAll (byteEvents w b) := by
  cases w <;> simp [transmit, byteEvents, driveLines_eq, pulse_eq]

/-! ## The command protocol -/

theorem sendCommand_eq (w : BusWidth) (rs rw : Level) (b : Byte) (s : State) :
    sendCommand w rs rw b s = s.emitAll (commandEvents w rs rw b) := by
  simp [sendCommand, commandEvents, drive_eq, transmit_eq]

theorem resetSeq_eq (s : State) : resetSeq s = s.emitAll resetEvents := by
  simp [resetSeq, resetEvents, drive_eq, driveLines_eq, pulse_eq]

theorem enable4Seq_eq (s : State) : enable4Seq s = s.emitAll enable4Events := by
  simp [enable4Seq, enable4Events, drive_eq, driveLines_eq, pulse_eq]

/-! ## The display session -/

theorem setCursor_eq (w : BusWidth) (r : Row) (c : Column) (s : State) :
    setCursor w r c s = (s.setCursorCache r c).emitAll (setCursorEvents w r c) := by
  simp [setCursor, setCursorEvents, sendCommand_eq]

theorem writeChar_eq (w : BusWidth) (b : Byte) (s : State) :
    writeChar w b s = s.emitAll (commandEvents w true false b) := sendCommand_eq w true false b s

theorem writeSpaces_eq (w : BusWidth) (n : Nat) (s : State) :
    writeSpaces w n s = s.emitAll (spaceEvents s.cfg w n) := by
  induction n generalizing s with
  | zero => simp [writeSpaces, spaceEvents]
  | succ n ih =>
    simp only [writeSpaces]
    rw [ih, writeChar_eq, State.emitAll_emitAll]
    simp [spaceEvents, List.replicate_succ]

theorem clearScreen_eq (w : BusWidth) (s : State) :
    clearScreen w s = s.emitAll (commandEvents w false false s.cfg.cmdClear) :=
  sendCommand_eq w false false s.cfg.cmdClear s

theorem blankFrom_eq (w : BusWidth) (r : Row) (c : Column) (n : Nat) (s : State) :
    blankFrom w r c n s = (s.setCursorCache r c).emitAll (blankEvents s.cfg w r c n) := by
  simp [blankFrom, blankEvents, setCursor_eq, writeSpaces_eq]

theorem initialise_eq (w : BusWidth) (s : State) :
    initialise w s =
      (((s.setBusWidth w).setCursorCache s.cfg.initCursorRow s.cfg.initCursorColumn).setPhase .ready).emitAll
        (initEvents s.cfg w) := by
  cases w <;> simp [initialise, initEvents, resetSeq_eq, enable4Seq_eq, clearScreen_eq]

/-! ## The levels a procedure leaves -/

theorem replay_driveEvents (lv : Levels) (l : Line) (v : Level) : replay lv (driveEvents l v) = lv.put l v := by
  cases v <;> cases l <;> rfl

theorem replay_linesEvents_cons (lv : Levels) (l : Line) (v : Level) (ls : List (Line × Level)) :
    replay lv (linesEvents ((l, v) :: ls)) = replay (lv.put l v) (linesEvents ls) := by
  have split : linesEvents ((l, v) :: ls) = driveEvents l v ++ linesEvents ls := rfl
  rw [split, replay_append, replay_driveEvents]

theorem replay_linesEvents_nil (lv : Levels) : replay lv (linesEvents []) = lv := rfl

@[simp] theorem replay_pulseEvents (lv : Levels) : replay lv pulseEvents = { lv with e := false } := rfl

theorem replay_byteEvents (lv : Levels) (w : BusWidth) (b : Byte) :
    replay lv (byteEvents w b) = lv.afterByte w b := by
  cases w <;>
    simp [byteEvents, byteLines, nibbleLines, highNibble, lowNibble, replay_append, replay_linesEvents_cons,
      replay_linesEvents_nil, Levels.put, Levels.afterByte]

theorem replay_commandEvents (lv : Levels) (w : BusWidth) (rs : Level) (b : Byte) :
    replay lv (commandEvents w rs false b) = lv.afterCommand w rs b := by
  simp [commandEvents, replay_append, replay_driveEvents, replay_byteEvents, Levels.afterCommand, Levels.put]

end Sys2Proof.Machine
end

