-- ==== Sys2Proof/Laws/Check.lean ====
section
/-! SUPPORT. The check on the request words of each instruction (60_exceptions.md R161), and what an entry through
`checked`, `withWidth` and `withCursor` can answer. -/

namespace Sys2Proof.Machine

/-! ## The check, in each phase -/

theorem check_init (w : BusWidth) (p : Phase) :
    check p (encode (.init w)) = if p = .ready then some .protocolSequenceViolation else none := by
  cases w <;> cases p <;> decide

theorem check_transmit (b : Byte) (p : Phase) :
    check p (encode (.transmit b)) = if p = .ready then none else some .protocolSequenceViolation := by
  cases p <;> revert b <;> decide +kernel

theorem check_sendCommand (rs rw : Level) (b : Byte) (p : Phase) :
    check p (encode (.sendCommand rs rw b)) =
      if p = .ready then (if rw then some .readNotSupported else none) else some .protocolSequenceViolation := by
  cases p <;> cases rs <;> cases rw <;> revert b <;> decide +kernel

theorem check_setCursor (r : Row) (c : Column) (p : Phase) :
    check p (encode (.setCursor r c)) = if p = .ready then none else some .protocolSequenceViolation := by
  cases p <;> revert r c <;> decide +kernel

theorem check_writeChar (b : Byte) (p : Phase) :
    check p (encode (.writeChar b)) = if p = .ready then none else some .protocolSequenceViolation := by
  cases p <;> revert b <;> decide +kernel

theorem check_clearScreen (p : Phase) :
    check p (encode .clearScreen) = if p = .ready then none else some .protocolSequenceViolation := by
  cases p <;> decide

theorem check_clearChar (r : Row) (c : Column) (p : Phase) :
    check p (encode (.clearChar r c)) = if p = .ready then none else some .protocolSequenceViolation := by
  cases p <;> revert r c <;> decide +kernel

theorem check_clearRow (r : Row) (p : Phase) :
    check p (encode (.clearRow r)) = if p = .ready then none else some .protocolSequenceViolation := by
  cases p <;> revert r <;> decide

theorem check_clearSection (r : Row) (g e : Column) (p : Phase) :
    check p (encode (.clearSection r g e)) =
      if p = .ready then (if g > e then some .invalidCoordinate else none) else some .protocolSequenceViolation := by
  cases p <;> revert r g e <;> decide +kernel

theorem check_backspace (p : Phase) :
    check p (encode .backspace) = if p = .ready then none else some .protocolSequenceViolation := by
  cases p <;> decide

theorem check_shiftCursorRight (p : Phase) :
    check p (encode .shiftCursorRight) = if p = .ready then none else some .protocolSequenceViolation := by
  cases p <;> decide

theorem check_shiftCursorLeft (p : Phase) :
    check p (encode .shiftCursorLeft) = if p = .ready then none else some .protocolSequenceViolation := by
  cases p <;> decide

theorem check_enableCursor (p : Phase) :
    check p (encode .enableCursor) = if p = .ready then none else some .protocolSequenceViolation := by
  cases p <;> decide

theorem check_disableCursor (p : Phase) :
    check p (encode .disableCursor) = if p = .ready then none else some .protocolSequenceViolation := by
  cases p <;> decide

/-! ## Entries -/

theorem checked_of_none {req : Word} {s : State} {body : State → Host.Outcome State Fault Refusal}
    (h : check s.phase req = none) : checked req s body = body s := by
  simp [checked, h]

theorem checked_of_some {req : Word} {s : State} {body : State → Host.Outcome State Fault Refusal} {k : FaultKind}
    (h : check s.phase req = some k) : checked req s body = .next (s.raise k req) := by
  simp [checked, h]

theorem checked_next {req : Word} {s t : State} {body : State → Host.Outcome State Fault Refusal}
    (h : checked req s body = .next t) :
    (∃ k, check s.phase req = some k ∧ t = s.raise k req) ∨ (check s.phase req = none ∧ body s = .next t) := by
  unfold checked at h
  split at h
  · rename_i k hk
    cases h
    exact .inl ⟨k, hk, rfl⟩
  · rename_i hk
    exact .inr ⟨hk, h⟩

theorem withWidth_of_some {s : State} {w : BusWidth} (h : s.busWidth = some w)
    (body : BusWidth → Host.Outcome State Fault Refusal) : withWidth s body = body w := by
  simp [withWidth, h]

theorem withWidth_next {s t : State} {body : BusWidth → Host.Outcome State Fault Refusal}
    (h : withWidth s body = .next t) : ∃ w, s.busWidth = some w ∧ body w = .next t := by
  unfold withWidth at h
  split at h
  · cases h
  · rename_i w hw
    exact ⟨w, hw, h⟩

theorem withCursor_of_some {s : State} {r : Row} {c : Column} (hr : s.cursorRow = some r)
    (hc : s.cursorColumn = some c) (body : Row → Column → Host.Outcome State Fault Refusal) :
    withCursor s body = body r c := by
  simp [withCursor, hr, hc]

theorem withCursor_next {s t : State} {body : Row → Column → Host.Outcome State Fault Refusal}
    (h : withCursor s body = .next t) :
    ∃ r c, s.cursorRow = some r ∧ s.cursorColumn = some c ∧ body r c = .next t := by
  unfold withCursor at h
  split at h
  · rename_i r c hr hc
    exact ⟨r, c, hr, hc, h⟩
  · cases h

end Sys2Proof.Machine
end

