-- ==== Sys2Proof/Laws/Exec.lean ====
section
/-! SUPPORT. Everything a request, and a step, can do to the state when it answers a next one. -/

namespace Sys2Proof.Machine

/-- What a request performed in READY with the bus width `w` does: it emits one byte, one command, or it moves the
cache and emits a set-address command, with spaces and a second one behind it or not. -/
inductive Performed (w : BusWidth) (s : State) : State → Prop
  | byte (b : Byte) : Performed w s (s.emitAll (byteEvents w b))
  | command (rs : Level) (b : Byte) : Performed w s (s.emitAll (commandEvents w rs false b))
  | cursor (r : Row) (c : Column) : Performed w s ((s.setCursorCache r c).emitAll (setCursorEvents w r c))
  | blank (r : Row) (c : Column) (n : Nat) :
      Performed w s ((s.setCursorCache r c).emitAll (blankEvents s.cfg w r c n))

/-- What a request does: it raises a fault, or it is init's initialisation, or backspace's no-op, or it is performed. -/
inductive Executed (req : Word) (s : State) : State → Prop
  | raised (k : FaultKind) (h : check s.phase req = some k) : Executed req s (s.raise k req)
  | initialised (w : BusWidth) (h : s.phase = .uninit) : Executed req s (initialise w s)
  | nothing (h : s.phase = .ready) : Executed req s s
  | performed {t : State} (w : BusWidth) (hp : s.phase = .ready) (hw : s.busWidth = some w) (h : Performed w s t) :
      Executed req s t

theorem phase_ready_of_check {p : Phase} {k : FaultKind} (h : (if p = .ready then none else some k) = none) :
    p = .ready := by
  by_contra hn
  simp [hn] at h

/-- The entry of every request but init: the check decides between the record and `body`. -/
theorem entered {req : Word} {s t : State} {body : State → BusWidth → Host.Outcome State Fault Refusal}
    (hp : check s.phase req = none → s.phase = .ready)
    (h : checked req s (fun s => withWidth s (body s)) = .next t)
    (hb : ∀ w, body s w = .next t → Performed w s t) : Executed req s t := by
  rcases checked_next h with ⟨k, hk, rfl⟩ | ⟨hk, h⟩
  · exact .raised k hk
  · obtain ⟨w, hw, h⟩ := withWidth_next h
    exact .performed w (hp hk) hw (hb w h)

theorem ready_of_sendCommand {s : State} {rs rw : Level} {b : Byte}
    (h : check s.phase (encode (.sendCommand rs rw b)) = none) : s.phase = .ready ∧ rw = false := by
  rw [check_sendCommand] at h
  by_cases hp : s.phase = .ready <;> cases rw <;> simp_all

theorem ready_of_clearSection {s : State} {r : Row} {g e : Column}
    (h : check s.phase (encode (.clearSection r g e)) = none) : s.phase = .ready ∧ g ≤ e := by
  rw [check_clearSection] at h
  by_cases hp : s.phase = .ready
  · by_cases hg : g > e
    · simp [hp, hg] at h
    · exact ⟨hp, BitVec.not_lt.mp hg⟩
  · simp [hp] at h

theorem execInit_executed (w : BusWidth) {s t : State}
    (h : execInit w s = .next t) : Executed (encode (.init w)) s t := by
  unfold execInit at h
  rcases checked_next h with ⟨k, hk, rfl⟩ | ⟨hk, h⟩
  · exact .raised k hk
  · cases h
    refine .initialised w ?_
    rw [check_init] at hk
    cases hp : s.phase <;> simp_all

theorem execTransmit_executed (b : Byte) {s t : State}
    (h : execTransmit b s = .next t) : Executed (encode (.transmit b)) s t := by
  unfold execTransmit at h
  refine entered (fun hk => phase_ready_of_check ((check_transmit ..).symm.trans hk)) h fun w h => ?_
  cases h; rw [transmit_eq]; exact .byte b

theorem execSendCommand_executed (rs : Level) (rw : Level) (b : Byte) {s t : State}
    (h : execSendCommand rs rw b s = .next t) : Executed (encode (.sendCommand rs rw b)) s t := by
  unfold execSendCommand at h
  rcases checked_next h with ⟨k, hk, rfl⟩ | ⟨hk, h⟩
  · exact .raised k hk
  · obtain ⟨hp, rfl⟩ := ready_of_sendCommand hk
    obtain ⟨w, hw, h⟩ := withWidth_next h
    cases h
    rw [sendCommand_eq]
    exact .performed w hp hw (.command rs b)

theorem execSetCursor_executed (r : Row) (c : Column) {s t : State}
    (h : execSetCursor r c s = .next t) : Executed (encode (.setCursor r c)) s t := by
  unfold execSetCursor at h
  refine entered (fun hk => phase_ready_of_check ((check_setCursor ..).symm.trans hk)) h fun w h => ?_
  cases h; rw [setCursor_eq]; exact .cursor r c

theorem execWriteChar_executed (b : Byte) {s t : State}
    (h : execWriteChar b s = .next t) : Executed (encode (.writeChar b)) s t := by
  unfold execWriteChar at h
  refine entered (fun hk => phase_ready_of_check ((check_writeChar ..).symm.trans hk)) h fun w h => ?_
  cases h; rw [writeChar_eq]; exact .command true b

theorem execClearScreen_executed {s t : State}
    (h : execClearScreen s = .next t) : Executed (encode .clearScreen) s t := by
  unfold execClearScreen at h
  refine entered (fun hk => phase_ready_of_check ((check_clearScreen ..).symm.trans hk)) h fun w h => ?_
  cases h; rw [clearScreen_eq]; exact .command false _

theorem execClearChar_executed (r : Row) (c : Column) {s t : State}
    (h : execClearChar r c s = .next t) : Executed (encode (.clearChar r c)) s t := by
  unfold execClearChar at h
  refine entered (fun hk => phase_ready_of_check ((check_clearChar ..).symm.trans hk)) h fun w h => ?_
  cases h; rw [blankFrom_eq]; exact .blank r c 1

theorem execClearRow_executed (r : Row) {s t : State}
    (h : execClearRow r s = .next t) : Executed (encode (.clearRow r)) s t := by
  unfold execClearRow at h
  refine entered (fun hk => phase_ready_of_check ((check_clearRow ..).symm.trans hk)) h fun w h => ?_
  cases h; rw [blankFrom_eq]; exact .blank r 0 15

theorem execClearSection_executed (r : Row) (g : Column) (e : Column) {s t : State}
    (h : execClearSection r g e s = .next t) : Executed (encode (.clearSection r g e)) s t := by
  unfold execClearSection at h
  refine entered (fun hk => (ready_of_clearSection hk).1) h fun w h => ?_
  cases h; rw [blankFrom_eq]; exact .blank r g _

theorem execBackspace_executed {s t : State}
    (h : execBackspace s = .next t) : Executed (encode .backspace) s t := by
  unfold execBackspace at h
  rcases checked_next h with ⟨k, hk, rfl⟩ | ⟨hk, h⟩
  · exact .raised k hk
  · have hp := phase_ready_of_check ((check_backspace ..).symm.trans hk)
    obtain ⟨r, c, -, -, h⟩ := withCursor_next h
    split at h
    · cases h; exact .nothing hp
    · obtain ⟨w, hw, h⟩ := withWidth_next h
      cases h
      rw [blankFrom_eq]
      exact .performed w hp hw (.blank r (c - 1) 1)

theorem execShiftCursorRight_executed {s t : State}
    (h : execShiftCursorRight s = .next t) : Executed (encode .shiftCursorRight) s t := by
  unfold execShiftCursorRight at h
  refine entered (fun hk => phase_ready_of_check ((check_shiftCursorRight ..).symm.trans hk)) h fun w h => ?_
  cases h; rw [sendCommand_eq]; exact .command false _

theorem execShiftCursorLeft_executed {s t : State}
    (h : execShiftCursorLeft s = .next t) : Executed (encode .shiftCursorLeft) s t := by
  unfold execShiftCursorLeft at h
  refine entered (fun hk => phase_ready_of_check ((check_shiftCursorLeft ..).symm.trans hk)) h fun w h => ?_
  cases h; rw [sendCommand_eq]; exact .command false _

theorem execEnableCursor_executed {s t : State}
    (h : execEnableCursor s = .next t) : Executed (encode .enableCursor) s t := by
  unfold execEnableCursor at h
  refine entered (fun hk => phase_ready_of_check ((check_enableCursor ..).symm.trans hk)) h fun w h => ?_
  cases h; rw [sendCommand_eq]; exact .command false _

theorem execDisableCursor_executed {s t : State}
    (h : execDisableCursor s = .next t) : Executed (encode .disableCursor) s t := by
  unfold execDisableCursor at h
  refine entered (fun hk => phase_ready_of_check ((check_disableCursor ..).symm.trans hk)) h fun w h => ?_
  cases h; rw [sendCommand_eq]; exact .command false _

/-- Every next state that a request can answer. -/
theorem exec_executed {i : Instr} {s t : State} (h : exec i s = .next t) : Executed (encode i) s t := by
  cases i with
  | init w => exact execInit_executed w h
  | transmit b => exact execTransmit_executed b h
  | sendCommand rs rw b => exact execSendCommand_executed rs rw b h
  | setCursor r c => exact execSetCursor_executed r c h
  | writeChar b => exact execWriteChar_executed b h
  | clearScreen => exact execClearScreen_executed h
  | clearChar r c => exact execClearChar_executed r c h
  | clearRow r => exact execClearRow_executed r h
  | clearSection r g e => exact execClearSection_executed r g e h
  | backspace => exact execBackspace_executed h
  | shiftCursorRight => exact execShiftCursorRight_executed h
  | shiftCursorLeft => exact execShiftCursorLeft_executed h
  | enableCursor => exact execEnableCursor_executed h
  | disableCursor => exact execDisableCursor_executed h

/-- A request whose check finds a kind records it with its word, and does nothing else. -/
theorem exec_of_check_some {i : Instr} {s : State} {k : FaultKind} (h : check s.phase (encode i) = some k) :
    exec i s = .next (s.raise k (encode i)) := by
  cases i <;>
    (simp only [exec, execInit, execTransmit, execSendCommand, execSetCursor, execWriteChar, execClearScreen,
      execClearChar, execClearRow, execClearSection, execBackspace, execShiftCursorRight, execShiftCursorLeft,
      execEnableCursor, execDisableCursor]
     exact checked_of_some h)

/-- A request whose check finds no kind leaves the record as it was. -/
theorem exec_fault_of_check_none {i : Instr} {s t : State} (h : check s.phase (encode i) = none)
    (ht : exec i s = .next t) : t.fault = s.fault := by
  rcases exec_executed ht with ⟨k, hk⟩ | ⟨w, hp⟩ | _ | ⟨w, hp, hw, hq⟩
  · simp [h] at hk
  · simp [initialise_eq]
  · rfl
  · cases hq <;> simp

/-- What a step does: it idles, rejects the word on offer, or performs what the word decodes to. -/
inductive Stepped (s : State) : State → Prop
  | idled (hf : s.fault = none) (hp : s.pending = []) : Stepped s s
  | rejected (req : Word) (rest : List Word) (reason : DecodeReject) (hf : s.fault = none)
      (hp : s.pending = req :: rest) (hd : decode req = .error reason) :
      Stepped s (s.takeRequest.raise .reservedRequest req)
  | executed (req : Word) (rest : List Word) (i : Instr) {t : State} (hf : s.fault = none)
      (hp : s.pending = req :: rest) (hd : decode req = .ok i) (h : exec i s.takeRequest = .next t) : Stepped s t

/-- Every next state that a step can answer. -/
theorem step_stepped {s t : State} (h : step s = .next t) : Stepped s t := by
  unfold step at h
  split at h
  · cases h
  · rename_i hr
    have hf : s.fault = none := by
      unfold State.haltReason at hr
      split at hr
      · assumption
      · cases hr
    split at h
    · rename_i hp
      cases h
      exact .idled hf (by simpa [State.fetch] using hp)
    · rename_i req hp
      obtain ⟨rest, hp⟩ : ∃ rest, s.pending = req :: rest := by
        cases hs : s.pending <;> simp_all [State.fetch]
      split at h
      · rename_i reason hd
        cases h
        exact .rejected req rest reason hf hp hd
      · rename_i i hd
        exact .executed req rest i hf hp hd h

end Sys2Proof.Machine
end

