-- ==== Sys2Proof/Laws/PerInstr.lean ====
section
/-! SUPPORT. Laws of the instruction as written, one lemma per constructor: its operands fit their fields
(30_encoding.md R63, R70), and its word carries its row's match bits under its row's mask (R65). -/

namespace Sys2Proof.Laws.OperandsFit

/-- The assembler does not refuse the line of the instruction. -/
def Statement (i : Instr) : Prop := i.wellFormed = true

theorem rowFits_toNat (r : Row) : rowFits r.toNat = true := by
  have := r.isLt
  simp [rowFits]; omega

theorem columnFits_toNat (c : Column) : columnFits c.toNat = true := by
  have := c.isLt
  simp [columnFits]; omega

theorem byteFits_toNat (b : Byte) : byteFits b.toNat = true := by
  have := b.isLt
  simp [byteFits]; omega

theorem levelFits_toNat (v : Level) : levelFits v.toNat = true := by
  cases v <;> rfl

theorem init (w : BusWidth) : Statement (.init w) := rfl
theorem transmit (b : Byte) : Statement (.transmit b) := byteFits_toNat b
theorem sendCommand (rs rw : Level) (b : Byte) : Statement (.sendCommand rs rw b) := by
  simp [Statement, Instr.wellFormed, Instr.toLine, AsmLine.wellFormed, levelFits_toNat, byteFits_toNat]
theorem setCursor (r : Row) (c : Column) : Statement (.setCursor r c) := by
  simp [Statement, Instr.wellFormed, Instr.toLine, AsmLine.wellFormed, rowFits_toNat, columnFits_toNat]
theorem writeChar (b : Byte) : Statement (.writeChar b) := byteFits_toNat b
theorem clearScreen : Statement .clearScreen := rfl
theorem clearChar (r : Row) (c : Column) : Statement (.clearChar r c) := by
  simp [Statement, Instr.wellFormed, Instr.toLine, AsmLine.wellFormed, rowFits_toNat, columnFits_toNat]
theorem clearRow (r : Row) : Statement (.clearRow r) := rowFits_toNat r
theorem clearSection (r : Row) (g e : Column) : Statement (.clearSection r g e) := by
  simp [Statement, Instr.wellFormed, Instr.toLine, AsmLine.wellFormed, rowFits_toNat, columnFits_toNat]
theorem backspace : Statement .backspace := rfl
theorem shiftCursorRight : Statement .shiftCursorRight := rfl
theorem shiftCursorLeft : Statement .shiftCursorLeft := rfl
theorem enableCursor : Statement .enableCursor := rfl
theorem disableCursor : Statement .disableCursor := rfl

end Sys2Proof.Laws.OperandsFit

namespace Sys2Proof.Laws.EncodingRow

/-- The row of the opcode table that the instruction's word selects matches the word, and no reserved bit is set. -/
def Statement (i : Instr) : Prop :=
  match rowOfOp (opField (encode i)) with
  | none => False
  | some row => encode i &&& row.mask = row.matchBits

/-- The same as a Bool, for finite checks. -/
def holds (i : Instr) : Bool :=
  match rowOfOp (opField (encode i)) with
  | none => false
  | some row => encode i &&& row.mask == row.matchBits

theorem of_holds {i : Instr} (h : holds i = true) : Statement i := by
  unfold holds at h
  unfold Statement
  split at h
  · cases h
  · exact beq_iff_eq.mp h

theorem init (w : BusWidth) : Statement (.init w) := of_holds (by cases w <;> decide)
theorem transmit (b : Byte) : Statement (.transmit b) := of_holds (by revert b; decide)
theorem sendCommand (rs rw : Level) (b : Byte) : Statement (.sendCommand rs rw b) :=
  of_holds (by cases rs <;> cases rw <;> revert b <;> decide)
theorem setCursor (r : Row) (c : Column) : Statement (.setCursor r c) := of_holds (by revert r c; decide)
theorem writeChar (b : Byte) : Statement (.writeChar b) := of_holds (by revert b; decide)
theorem clearScreen : Statement .clearScreen := of_holds (by decide)
theorem clearChar (r : Row) (c : Column) : Statement (.clearChar r c) := of_holds (by revert r c; decide)
theorem clearRow (r : Row) : Statement (.clearRow r) := of_holds (by revert r; decide)
theorem clearSection (r : Row) (g e : Column) : Statement (.clearSection r g e) :=
  of_holds (by revert r g e; decide)
theorem backspace : Statement .backspace := of_holds (by decide)
theorem shiftCursorRight : Statement .shiftCursorRight := of_holds (by decide)
theorem shiftCursorLeft : Statement .shiftCursorLeft := of_holds (by decide)
theorem enableCursor : Statement .enableCursor := of_holds (by decide)
theorem disableCursor : Statement .disableCursor := of_holds (by decide)

end Sys2Proof.Laws.EncodingRow
end

