-- ==== Sys2Proof/Laws/Wire.lean ====
section
/-! SUPPORT. What an observer reads off the events of each procedure: the levels after them, whole pulses, latches, bytes. -/

namespace Sys2Proof.Machine

theorem newEvents_append (before evs : List Event) : newEvents before (before ++ evs) = evs := by
  simp [newEvents]

theorem spaceEvents_succ (cfg : Config) (w : BusWidth) (n : Nat) :
    spaceEvents cfg w (n + 1) = commandEvents w true false cfg.space ++ spaceEvents cfg w n := by
  simp [spaceEvents, List.replicate_succ]

/-! ## Levels -/

theorem replay_spaceEvents (lv : Levels) (cfg : Config) (w : BusWidth) (n : Nat) :
    replay lv (spaceEvents cfg w n) = if n = 0 then lv else lv.afterCommand w true cfg.space := by
  induction n generalizing lv with
  | zero => rfl
  | succ n ih =>
    rw [spaceEvents_succ, replay_append, ih, replay_commandEvents]
    split <;> simp
    cases w <;> rfl

theorem replay_blankEvents (lv : Levels) (cfg : Config) (w : BusWidth) (r : Row) (c : Column) (n : Nat) :
    replay lv (blankEvents cfg w r c n) = lv.afterCommand w false (setAddressByte r c) := by
  simp only [blankEvents, setCursorEvents, replay_append, replay_commandEvents, replay_spaceEvents]
  split <;> cases w <;> rfl

theorem replay_initEvents (lv : Levels) (cfg : Config) (w : BusWidth) :
    replay lv (initEvents cfg w) = lv.afterCommand w false cfg.cmdClear := by
  cases w <;> simp only [initEvents, replay_append, replay_commandEvents] <;> cases lv <;> rfl

/-! ## Whole pulses -/

theorem strobed_append {a b : List Event} (ha : strobed a = true) (hb : strobed b = true) :
    strobed (a ++ b) = true := by
  fun_induction strobed a <;> simp_all [strobed]

theorem strobed_driveEvents (l : Line) (v : Level) (hl : l ≠ .e) : strobed (driveEvents l v) = true := by
  cases v <;> cases l <;> simp_all [driveEvents, strobed]

theorem strobed_linesEvents (ls : List (Line × Level)) (h : ∀ p ∈ ls, p.1 ≠ .e) : strobed (linesEvents ls) = true := by
  induction ls with
  | nil => rfl
  | cons p ls ih =>
    exact strobed_append (strobed_driveEvents p.1 p.2 (h p (by simp))) (ih fun q hq => h q (by simp [hq]))

theorem byteLines_ne_e (b : Byte) : ∀ p ∈ byteLines b, p.1 ≠ .e := by simp [byteLines]

theorem nibbleLines_ne_e (n : Nibble) : ∀ p ∈ nibbleLines n, p.1 ≠ .e := by simp [nibbleLines]

theorem strobed_byteEvents (w : BusWidth) (b : Byte) : strobed (byteEvents w b) = true := by
  cases w with
  | eight => exact strobed_append (strobed_linesEvents _ (byteLines_ne_e b)) rfl
  | four =>
    exact strobed_append (strobed_append (strobed_append (strobed_linesEvents _ (nibbleLines_ne_e _)) rfl)
      (strobed_linesEvents _ (nibbleLines_ne_e _))) rfl

theorem strobed_commandEvents (w : BusWidth) (rs rw : Level) (b : Byte) : strobed (commandEvents w rs rw b) = true :=
  strobed_append (strobed_append (strobed_driveEvents .rs rs (by simp)) (strobed_driveEvents .rw rw (by simp)))
    (strobed_byteEvents w b)

theorem strobed_spaceEvents (cfg : Config) (w : BusWidth) (n : Nat) : strobed (spaceEvents cfg w n) = true := by
  induction n with
  | zero => rfl
  | succ n ih => rw [spaceEvents_succ]; exact strobed_append (strobed_commandEvents ..) ih

theorem strobed_blankEvents (cfg : Config) (w : BusWidth) (r : Row) (c : Column) (n : Nat) :
    strobed (blankEvents cfg w r c n) = true :=
  strobed_append (strobed_append (strobed_commandEvents ..) (strobed_spaceEvents ..)) (strobed_commandEvents ..)

theorem strobed_initEvents (cfg : Config) (w : BusWidth) : strobed (initEvents cfg w) = true := by
  cases w
  · exact strobed_append (by decide) (strobed_commandEvents ..)
  · exact strobed_append (by decide) (strobed_commandEvents ..)

/-! ## Latches -/

theorem latchesFrom_append (lv : Levels) (a b : List Event) :
    latchesFrom lv (a ++ b) = latchesFrom lv a ++ latchesFrom (replay lv a) b := by
  induction a generalizing lv with
  | nil => rfl
  | cons x a ih => simp only [List.cons_append, latchesFrom, replay_cons, ih]; split <;> rfl

theorem latchesFrom_driveEvents (lv : Levels) (l : Line) (v : Level) (hl : l ≠ .e) :
    latchesFrom lv (driveEvents l v) = [] := by
  cases v <;> cases l <;> simp_all [driveEvents, latchesFrom]

theorem latchesFrom_linesEvents (lv : Levels) (ls : List (Line × Level)) (h : ∀ p ∈ ls, p.1 ≠ .e) :
    latchesFrom lv (linesEvents ls) = [] := by
  induction ls generalizing lv with
  | nil => rfl
  | cons p ls ih =>
    have split : linesEvents (p :: ls) = driveEvents p.1 p.2 ++ linesEvents ls := rfl
    rw [split, latchesFrom_append, latchesFrom_driveEvents _ _ _ (h p (by simp)), ih _ fun q hq => h q (by simp [hq])]
    rfl

theorem latchesFrom_pulseEvents (lv : Levels) : latchesFrom lv pulseEvents = [latchOf lv] := by
  simp [pulseEvents, latchesFrom, applyEvent, Levels.put, latchOf, Levels.dataByte]

/-- Driving a byte puts it on the data lines. -/
theorem dataByte_byteLines (lv : Levels) (b : Byte) : (replay lv (linesEvents (byteLines b))).dataByte = b := by
  have bits : ∀ b : Byte, (BitVec.ofBool (b.getLsbD 7) ++ BitVec.ofBool (b.getLsbD 6) ++ BitVec.ofBool (b.getLsbD 5) ++
      BitVec.ofBool (b.getLsbD 4) ++ BitVec.ofBool (b.getLsbD 3) ++ BitVec.ofBool (b.getLsbD 2) ++
      BitVec.ofBool (b.getLsbD 1) ++ BitVec.ofBool (b.getLsbD 0) : Byte) = b := by decide
  conv_rhs => rw [← bits b]
  simp [byteLines, replay_linesEvents_cons, replay_linesEvents_nil, Levels.put, Levels.dataByte]

theorem high_bits_over_low (d7 d6 d5 d4 x7 x6 x5 x4 x3 x2 x1 x0 : Bool) :
    (BitVec.ofBool d7 ++ BitVec.ofBool d6 ++ BitVec.ofBool d5 ++ BitVec.ofBool d4 ++
      BitVec.ofBool x3 ++ BitVec.ofBool x2 ++ BitVec.ofBool x1 ++ BitVec.ofBool x0 : Byte) =
    (BitVec.ofBool d7 ++ BitVec.ofBool d6 ++ BitVec.ofBool d5 ++ BitVec.ofBool d4 : Nibble) ++
      lowNibble (BitVec.ofBool x7 ++ BitVec.ofBool x6 ++ BitVec.ofBool x5 ++ BitVec.ofBool x4 ++
        BitVec.ofBool x3 ++ BitVec.ofBool x2 ++ BitVec.ofBool x1 ++ BitVec.ofBool x0) := by
  have low : lowNibble (BitVec.ofBool x7 ++ BitVec.ofBool x6 ++ BitVec.ofBool x5 ++ BitVec.ofBool x4 ++
      BitVec.ofBool x3 ++ BitVec.ofBool x2 ++ BitVec.ofBool x1 ++ BitVec.ofBool x0) =
      BitVec.ofBool x3 ++ BitVec.ofBool x2 ++ BitVec.ofBool x1 ++ BitVec.ofBool x0 := by
    revert x7 x6 x5 x4 x3 x2 x1 x0; decide
  rw [low]
  clear low
  revert d7 d6 d5 d4 x3 x2 x1 x0; decide

/-- Driving a nibble puts it on D7..D4 and leaves D3..D0. -/
theorem dataByte_nibbleLines (lv : Levels) (n : Nibble) :
    (replay lv (linesEvents (nibbleLines n))).dataByte = n ++ lowNibble lv.dataByte := by
  have bits : ∀ n : Nibble, (BitVec.ofBool (n.getLsbD 3) ++ BitVec.ofBool (n.getLsbD 2) ++
      BitVec.ofBool (n.getLsbD 1) ++ BitVec.ofBool (n.getLsbD 0) : Nibble) = n := by decide
  conv_rhs => rw [← bits n]
  simp only [nibbleLines, replay_linesEvents_cons, replay_linesEvents_nil, Levels.put, Levels.dataByte]
  exact high_bits_over_low ..

theorem latchOf_byteLines (lv : Levels) (b : Byte) :
    latchOf (replay lv (linesEvents (byteLines b))) = { rs := lv.rs, rw := lv.rw, data := b } := by
  simp only [latchOf, dataByte_byteLines]
  congr 1 <;> simp [byteLines, replay_linesEvents_cons, replay_linesEvents_nil, Levels.put]

theorem latchOf_nibbleLines (lv : Levels) (n : Nibble) :
    latchOf (replay lv (linesEvents (nibbleLines n))) =
      { rs := lv.rs, rw := lv.rw, data := n ++ lowNibble lv.dataByte } := by
  simp only [latchOf, dataByte_nibbleLines]
  congr 1 <;> simp [nibbleLines, replay_linesEvents_cons, replay_linesEvents_nil, Levels.put]

theorem lowNibble_append (n low : Nibble) : lowNibble (n ++ low) = low := by
  revert n low; decide

theorem highNibble_append (n low : Nibble) : highNibble (n ++ low) = n := by
  revert n low; decide

theorem nibbles_append (b : Byte) : highNibble b ++ lowNibble b = b := by
  revert b; decide

/-! ## Bytes -/

theorem readBytes_nil (w : BusWidth) : readBytes w [] = [] := by cases w <;> rfl

end Sys2Proof.Machine
end

