-- ==== Sys2Proof/Tests/Slice0.lean ====
section
/-! SUPPORT. Tests on fixed values, one step each, and the witnesses of the statements' hypotheses. Every expected value is
written from the vectors of 95_test_vectors.md that a test's docstring names, with the vector parameters of 00_scope.md R9. -/

namespace Sys2Proof.Machine

/-! ## Helpers -/

/-- The vectors' "after init FOUR" and "after init EIGHT". -/
def afterInit (w : BusWidth) : State := initialise w State.reset

/-- The state with one word on offer. -/
def offering (s : State) (req : Word) : State := { s with pending := [req] }

/-- The state with the cursor cache at a cell. -/
def withCache (s : State) (r : Row) (c : Column) : State := { s with cursorRow := some r, cursorColumn := some c }

/-- The state after a step that takes one word. -/
def stepped (s : State) (req : Word) : Option State :=
  match step (offering s req) with
  | .next t => some t
  | .fault _ => none
  | .refused _ => none

/-- The events a request appends. -/
def emitted (s : State) (req : Word) : Option (List Event) := (stepped s req).map fun t => newEvents s.H t.H

/-- How many events and pulses a request appends. -/
def counts (s : State) (req : Word) : Option (Nat × Nat) :=
  (emitted s req).map fun evs => (evs.length, pulseCount evs)

/-- The bytes a request puts on the bus. -/
def bytesOf (s : State) (w : BusWidth) (req : Word) : Option (List BusItem) :=
  (emitted s req).map fun evs => readBytes w (latchesFrom s.lvl evs)

/-- The cursor cache after a request. -/
def cacheAfter (s : State) (req : Word) : Option (Option Row × Option Column) :=
  (stepped s req).map fun t => (t.cursorRow, t.cursorColumn)

/-- The fault record after a request, as code and word. -/
def recordAfter (s : State) (req : Word) : Option (Option (BitVec 3 × Word)) :=
  (stepped s req).map fun t => t.fault.map FaultRecord.recorded

/-- What the decoder answers, without its reason. -/
def decoded (req : Word) : Option Instr := decodeTableWord 16 req.toNat

/-! ## WellFormed: every check refuses a term that it is for (30_encoding.md R70, 00_scope.md R9) -/

theorem test_row_above_1_refused : AsmLine.wellFormed (.setCursor 2 0) = false := by decide
theorem test_column_above_15_refused : AsmLine.wellFormed (.setCursor 1 16) = false := by decide
theorem test_end_above_15_refused : AsmLine.wellFormed (.clearSection 0 0 16) = false := by decide
theorem test_byte_above_FF_refused : AsmLine.wellFormed (.transmit 256) = false := by decide
theorem test_rw_above_1_refused : AsmLine.wellFormed (.sendCommand 0 2 0) = false := by decide
theorem test_string_code_above_FF_refused : AsmLine.wellFormed (.writeString [0x48, 256]) = false := by decide
theorem test_settle_time_zero_refused :
    Config.wellFormed { Config.vectorValues with tSettle := 0 } = false := by decide
theorem test_refused_line_makes_no_word : assemble (.clearRow 2) = none := by decide

/-! ## Decode: a word of every constructor, written out from R65, and V50's rejections -/

theorem test_decode_init_four : decoded 0b0000000000000000 = some (.init .four) := by decide
theorem test_decode_init_eight : decoded 0b0000000000000001 = some (.init .eight) := by decide
theorem test_decode_transmit : decoded 0b0001000010100101 = some (.transmit 0xA5) := by decide
theorem test_decode_sendCommand : decoded 0b0010001001000001 = some (.sendCommand true false 0x41) := by decide
theorem test_decode_sendCommand_read : decoded 0b0010000100000000 = some (.sendCommand false true 0x00) := by decide
theorem test_decode_setCursor : decoded 0b0011000100000011 = some (.setCursor 1 3) := by decide
theorem test_decode_writeChar : decoded 0b0100000001001000 = some (.writeChar 0x48) := by decide
theorem test_decode_clearScreen : decoded 0b0101000000000000 = some .clearScreen := by decide
theorem test_decode_clearChar : decoded 0b0110000100001111 = some (.clearChar 1 15) := by decide
theorem test_decode_clearRow : decoded 0b0111000100000000 = some (.clearRow 1) := by decide
theorem test_decode_clearSection : decoded 0b1000000000110111 = some (.clearSection 0 3 7) := by decide
theorem test_decode_backspace : decoded 0b1001000000000000 = some .backspace := by decide
theorem test_decode_shiftCursorRight : decoded 0b1010000000000000 = some .shiftCursorRight := by decide
theorem test_decode_shiftCursorLeft : decoded 0b1011000000000000 = some .shiftCursorLeft := by decide
theorem test_decode_enableCursor : decoded 0b1100000000000000 = some .enableCursor := by decide
theorem test_decode_disableCursor : decoded 0b1101000000000000 = some .disableCursor := by decide

theorem test_decode_rejects_reserved :
    [0x0002, 0x1100, 0x2C00, 0x3010, 0x5001, 0x7101, 0x8F37, 0x9001, 0xE000, 0xF123].map decoded =
      List.replicate 10 none := by decide

/-- The words of R71's formulas, from V53 and the table of programs. -/
theorem test_encode_words :
    [Instr.init .eight, .transmit 0xA5, .sendCommand true false 0x41, .setCursor 1 15, .writeChar 0x48, .clearChar 0 5,
      .clearRow 1, .clearSection 1 0 15].map encode =
      [0x0001, 0x10A5, 0x2241, 0x310F, 0x4048, 0x6005, 0x7100, 0x810F] := by decide

/-- The word placed first on offer is the one the next step runs. -/
theorem test_withFetchWord_runs :
    (match step (State.reset.withFetchWord 16 0x0001) with
     | .next t => some (t.phase, t.busWidth, t.H.length)
     | _ => none) = some (.ready, some .eight, 34) := by decide

/-! ## The bus encoder -/

/-- V1. -/
theorem test_transmit_A5_four : emitted (afterInit .four) 0x10A5 = some
    [.clr .d7, .set .d7, .clr .d6, .clr .d5, .set .d5, .clr .d4, .set .e, .wait, .clr .e, .wait,
     .clr .d7, .clr .d6, .set .d6, .clr .d5, .clr .d4, .set .d4, .set .e, .wait, .clr .e, .wait] := by decide

/-- V2. -/
theorem test_transmit_A5_eight : emitted (afterInit .eight) 0x10A5 = some
    [.clr .d7, .set .d7, .clr .d6, .clr .d5, .set .d5, .clr .d4, .clr .d3, .clr .d2, .set .d2, .clr .d1, .clr .d0,
     .set .d0, .set .e, .wait, .clr .e, .wait] := by decide

/-! ## The command protocol -/

/-- V10: the 48 events. -/
theorem test_init_four : emitted State.reset 0x0000 = some
    [.clr .rs, .clr .d7, .clr .d6, .clr .d5, .set .d5, .clr .d4, .set .d4, .set .e, .wait, .clr .e, .wait, .set .e, .wait,
     .clr .e, .wait, .set .e, .wait, .clr .e, .wait, .clr .rs, .clr .d7, .clr .d6, .clr .d5, .set .d5, .clr .d4,
     .set .e, .wait, .clr .e, .wait, .clr .rs, .clr .rw, .clr .d7, .clr .d6, .clr .d5, .clr .d4, .set .e, .wait, .clr .e,
     .wait, .clr .d7, .clr .d6, .clr .d5, .clr .d4, .set .d4, .set .e, .wait, .clr .e, .wait] := by decide

/-- V13: D3..D0 keep their power-on levels 1010 through the three raw latches. -/
theorem test_init_eight_raw_latches :
    (stepped (State.powerOn { Config.vectorValues with
      lineResetLevel := { Levels.allLow with d3 := true, d1 := true } }) 0x0001).map State.latches = some
    [⟨false, false, 0b00111010⟩, ⟨false, false, 0b00111010⟩, ⟨false, false, 0b00111010⟩,
      ⟨false, false, 0b00000001⟩] := by decide

/-- V12: RW = 1 in the raw latches, and E = 1 at power-on makes no extra latch. -/
theorem test_init_four_high_mode_lines :
    (stepped (State.powerOn { Config.vectorValues with
      lineResetLevel := { Levels.allLow with rw := true, e := true } }) 0x0000).map State.latches = some
    [⟨false, true, 0b00110000⟩, ⟨false, true, 0b00110000⟩, ⟨false, true, 0b00110000⟩, ⟨false, true, 0b00100000⟩,
      ⟨false, false, 0b00000000⟩, ⟨false, false, 0b00010000⟩] := by decide

/-- V20, second row: 21 events, data 0x41. -/
theorem test_sendCommand_data : (counts (afterInit .four) 0x2241, bytesOf (afterInit .four) .four 0x2241) =
    (some (21, 2), some [⟨true, false, 0x41⟩]) := by decide

/-- V22 and V52: RW = 1 records (4, 0x2100) and emits nothing. -/
theorem test_sendCommand_read : (recordAfter (afterInit .four) 0x2100, emitted (afterInit .four) 0x2100) =
    (some (some (4, 0x2100)), some []) := by decide

/-! ## The display session -/

/-- V31. -/
theorem test_setCursor : (counts (afterInit .four) 0x3103, bytesOf (afterInit .four) .four 0x3103,
    cacheAfter (afterInit .four) 0x3103) =
    (some (22, 2), some [⟨false, false, 0xC3⟩], some (some 1, some 3)) := by decide

/-- V30, second row. -/
theorem test_setCursor_eight : (counts (afterInit .eight) 0x300F, bytesOf (afterInit .eight) .eight 0x300F) =
    (some (19, 1), some [⟨false, false, 0x8F⟩]) := by decide

/-- V32 and V33: data, and the cache stays. -/
theorem test_writeChar : (counts (afterInit .four) 0x4048, bytesOf (afterInit .four) .four 0x4048,
    cacheAfter (withCache (afterInit .four) 1 5) 0x4048) =
    (some (21, 2), some [⟨true, false, 0x48⟩], some (some 1, some 5)) := by decide

/-- V34 and V35: the cache does not move. -/
theorem test_clearScreen : (counts (afterInit .four) 0x5000, bytesOf (afterInit .four) .four 0x5000,
    cacheAfter (withCache (afterInit .four) 1 7) 0x5000) =
    (some (19, 2), some [⟨false, false, 0x01⟩], some (some 1, some 7)) := by decide

/-- V36. -/
theorem test_clearChar : (counts (afterInit .four) 0x6005, bytesOf (afterInit .four) .four 0x6005,
    cacheAfter (afterInit .four) 0x6005) =
    (some (62, 6), some [⟨false, false, 0x85⟩, ⟨true, false, 0x20⟩, ⟨false, false, 0x85⟩],
      some (some 0, some 5)) := by decide

/-- V38: 340 events and 34 pulses, fifteen spaces. -/
theorem test_clearRow : (counts (afterInit .four) 0x7100, bytesOf (afterInit .four) .four 0x7100,
    cacheAfter (afterInit .four) 0x7100) =
    (some (340, 34),
      some (⟨false, false, 0xC0⟩ :: (List.replicate 15 ⟨true, false, 0x20⟩ ++ [⟨false, false, 0xC0⟩])),
      some (some 1, some 0)) := by decide +kernel

/-- V39. -/
theorem test_clearSection : (counts (afterInit .eight) 0x8037, bytesOf (afterInit .eight) .eight 0x8037,
    cacheAfter (afterInit .eight) 0x8037) =
    (some (114, 7),
      some (⟨false, false, 0x83⟩ :: (List.replicate 5 ⟨true, false, 0x20⟩ ++ [⟨false, false, 0x83⟩])),
      some (some 0, some 3)) := by decide +kernel

/-- V41: begin > end records (1, 0x8073) and emits nothing. -/
theorem test_clearSection_reversed : (recordAfter (afterInit .four) 0x8073, emitted (afterInit .four) 0x8073) =
    (some (some (1, 0x8073)), some []) := by decide

/-- V43: at column 5 of row 1. -/
theorem test_backspace : (counts (withCache (afterInit .four) 1 5) 0x9000,
    bytesOf (withCache (afterInit .four) 1 5) .four 0x9000, cacheAfter (withCache (afterInit .four) 1 5) 0x9000) =
    (some (62, 6), some [⟨false, false, 0xC4⟩, ⟨true, false, 0x20⟩, ⟨false, false, 0xC4⟩],
      some (some 1, some 4)) := by decide

/-- V42 and V44: nothing at column 0, and no wrap to row 0. -/
theorem test_backspace_at_column_0 : (emitted (withCache (afterInit .four) 1 0) 0x9000,
    cacheAfter (withCache (afterInit .four) 1 0) 0x9000) = (some [], some (some 1, some 0)) := by decide

/-- V46. -/
theorem test_shiftCursorRight : (counts (afterInit .four) 0xA000, bytesOf (afterInit .four) .four 0xA000) =
    (some (20, 2), some [⟨false, false, 0x14⟩]) := by decide

/-- V46. -/
theorem test_shiftCursorLeft : (counts (afterInit .four) 0xB000, bytesOf (afterInit .four) .four 0xB000) =
    (some (19, 2), some [⟨false, false, 0x10⟩]) := by decide

/-- V46. -/
theorem test_enableCursor : (counts (afterInit .four) 0xC000, bytesOf (afterInit .four) .four 0xC000) =
    (some (22, 2), some [⟨false, false, 0x0F⟩]) := by decide

/-- V47. -/
theorem test_disableCursor : (counts (afterInit .eight) 0xD000, bytesOf (afterInit .eight) .eight 0xD000) =
    (some (16, 1), some [⟨false, false, 0x0C⟩]) := by decide

/-! ## Faults -/

/-- V51: the recorded code of each word at power-on. -/
theorem test_check_order_at_power_on :
    [0x5000, 0x8073, 0x2100, 0xE000, 0x3010, 0x0002].map (recordAfter State.reset) =
      [some (some (2, 0x5000)), some (some (2, 0x8073)), some (some (2, 0x2100)), some (some (3, 0xE000)),
       some (some (3, 0x3010)), some (some (3, 0x0002))] := by decide

/-- V50: init in READY. -/
theorem test_second_init : recordAfter (afterInit .four) 0x0001 = some (some (2, 0x0001)) := by decide

/-- V52: a halted block performs nothing. -/
theorem test_halted : stepped ((afterInit .four).raise .readNotSupported 0x2100) 0x5000 = none := by decide

/-! ## The assembler (V53) -/

theorem test_text_init : assembleText "init FOUR".toList = some [0x0000] ∧ assembleText "init EIGHT".toList = some [0x0001] := by
  decide
theorem test_text_transmit : assembleText "transmit 0xA5".toList = some [0x10A5] := by decide
theorem test_text_sendCommand : assembleText "send_command 1, 0, 'A'".toList = some [0x2241] := by decide
theorem test_text_setCursor : assembleText "set_cursor 1, 15".toList = some [0x310F] := by decide
theorem test_text_writeChar : assembleText "write_char 'H'".toList = some [0x4048] := by decide
theorem test_text_clearSection : assembleText "clear_section 0, 7, 3".toList = some [0x8073] := by decide
theorem test_text_writeString : assembleText "write_string \"Hi\"".toList = some [0x4048, 0x4069] := by decide
theorem test_text_writeString_empty : assembleText "write_string \"\"".toList = some [] := by decide
theorem test_text_refused : assembleText "set_cursor 2, 0".toList = none := by decide

/-! ## Witnesses: concrete states and operands that meet the hypotheses of the statements -/

theorem ready_afterInit (w : BusWidth) : ReadyWith (afterInit w) w := by
  cases w <;> exact ⟨rfl, rfl, rfl⟩

theorem awaiting_reset : AwaitingInit State.reset := ⟨rfl, rfl⟩

theorem inv_reset : Inv State.reset :=
  ⟨by decide, by decide, by decide, by decide, by decide, by decide, by decide, by decide⟩

theorem inv_afterInit_four : Inv (afterInit .four) :=
  ⟨by decide, by decide, by decide, by decide, by decide, by decide, by decide, by decide⟩

theorem inv_afterInit_eight : Inv (afterInit .eight) :=
  ⟨by decide, by decide, by decide, by decide, by decide, by decide, by decide, by decide⟩

theorem offered_offering (s : State) (req : Word) (h : s.fault = none) : Offered (offering s req) req [] := ⟨h, rfl⟩

/-- The table's row for a word's opcode, and that the word has no reserved bit set. -/
theorem clean_of {req : Word} {row : OpcodeRow} (h : rowOfOp (opField req) = some row)
    (hm : req &&& row.mask = row.matchBits) :
    ∀ row, opcodeTable[(req.extractLsb' 12 4).toNat]? = some row → req &&& row.mask = row.matchBits := by
  intro row' h'
  cases h.symm.trans h'
  exact hm

/-- The table's row for a word's opcode, and that the word has a reserved bit set. -/
theorem unclean_of {req : Word} {row : OpcodeRow} (h : rowOfOp (opField req) = some row)
    (hm : req &&& row.mask ≠ row.matchBits) :
    ∀ row, opcodeTable[(req.extractLsb' 12 4).toNat]? = some row → req &&& row.mask ≠ row.matchBits := by
  intro row' h'
  cases h.symm.trans h'
  exact hm

theorem witness_EncodeOfDecodeIsTheWord : decode 0x8037 = .ok (.clearSection 0 3 7) := by decide

theorem witness_NoWordMatchesTwoRows : decode 0x310F = .ok (.setCursor 1 15) ∧ decoded 0xFFFF = none := by decide

theorem witness_StepPerformsTheDecodedRequest :
    Offered (offering (afterInit .four) 0x4048) 0x4048 [] ∧ decode 0x4048 = .ok (.writeChar 0x48) :=
  ⟨offered_offering _ _ rfl, by decide⟩

theorem witness_ReservedWordsRaiseReservedRequest_bits : Offered (offering (afterInit .eight) 0x1100) 0x1100 [] ∧
    ∀ row, opcodeTable[((0x1100 : Word).extractLsb' 12 4).toNat]? = some row → 0x1100 &&& row.mask ≠ row.matchBits :=
  ⟨offered_offering _ _ rfl, unclean_of (req := 0x1100) rfl (by decide)⟩

theorem witness_ReservedWordsRaiseReservedRequest_opcode : Offered (offering State.reset 0xFFFF) 0xFFFF [] ∧
    ∀ row, opcodeTable[((0xFFFF : Word).extractLsb' 12 4).toNat]? = some row → 0xFFFF &&& row.mask ≠ row.matchBits :=
  ⟨offered_offering _ _ rfl, by intro row h; cases h⟩

/-! ### One for each clause of CheckOrderDecidesTheRecordedKind -/

theorem witness_CheckOrder_opcode_E : Offered (offering State.reset 0xE000) 0xE000 [] ∧
    (0xE000 : Word).extractLsb' 12 4 = 0xE := ⟨offered_offering _ _ rfl, by decide⟩

theorem witness_CheckOrder_opcode_F : Offered (offering (afterInit .four) 0xFFFF) 0xFFFF [] ∧
    (0xFFFF : Word).extractLsb' 12 4 = 0xF := ⟨offered_offering _ _ rfl, by decide⟩

theorem witness_CheckOrder_reserved_bit : Offered (offering (afterInit .four) 0xD800) 0xD800 [] ∧
    ¬ ((0xD800 : Word).extractLsb' 12 4 = 0xE ∨ (0xD800 : Word).extractLsb' 12 4 = 0xF) ∧
    ¬ (∀ row, opcodeTable[((0xD800 : Word).extractLsb' 12 4).toNat]? = some row → 0xD800 &&& row.mask = row.matchBits) :=
  ⟨offered_offering _ _ rfl, by decide, fun h => absurd (h _ rfl) (by decide)⟩

theorem witness_CheckOrder_init_in_ready : Offered (offering (afterInit .four) 0x0001) 0x0001 [] ∧
    (∀ row, opcodeTable[((0x0001 : Word).extractLsb' 12 4).toNat]? = some row → 0x0001 &&& row.mask = row.matchBits) ∧
    (0x0001 : Word).extractLsb' 12 4 = 0x0 ∧ (offering (afterInit .four) 0x0001).phase = .ready :=
  ⟨offered_offering _ _ rfl, clean_of (req := 0x0001) rfl (by decide), by decide, rfl⟩

theorem witness_CheckOrder_other_in_uninit : Offered (offering State.reset 0xD000) 0xD000 [] ∧
    (∀ row, opcodeTable[((0xD000 : Word).extractLsb' 12 4).toNat]? = some row → 0xD000 &&& row.mask = row.matchBits) ∧
    (0xD000 : Word).extractLsb' 12 4 ≠ 0x0 ∧ (offering State.reset 0xD000).phase = .uninit :=
  ⟨offered_offering _ _ rfl, clean_of (req := 0xD000) rfl (by decide), by decide, rfl⟩

theorem witness_CheckOrder_read : Offered (offering (afterInit .eight) 0x23FF) 0x23FF [] ∧
    (∀ row, opcodeTable[((0x23FF : Word).extractLsb' 12 4).toNat]? = some row → 0x23FF &&& row.mask = row.matchBits) ∧
    (0x23FF : Word).extractLsb' 12 4 = 0x2 ∧ (0x23FF : Word).getLsbD 8 = true :=
  ⟨offered_offering _ _ rfl, clean_of (req := 0x23FF) rfl (by decide), by decide, by decide⟩

/-- begin is one above end. -/
theorem witness_CheckOrder_reversed_section : Offered (offering (afterInit .eight) 0x81FE) 0x81FE [] ∧
    (∀ row, opcodeTable[((0x81FE : Word).extractLsb' 12 4).toNat]? = some row → 0x81FE &&& row.mask = row.matchBits) ∧
    (0x81FE : Word).extractLsb' 12 4 = 0x8 ∧
    ((0x81FE : Word).extractLsb' 4 4).toNat > ((0x81FE : Word).extractLsb' 0 4).toNat :=
  ⟨offered_offering _ _ rfl, clean_of (req := 0x81FE) rfl (by decide), by decide, by decide⟩

/-- begin is end, which raises none. -/
theorem witness_CheckOrder_none : Offered (offering (afterInit .eight) 0x81FF) 0x81FF [] ∧
    (∀ row, opcodeTable[((0x81FF : Word).extractLsb' 12 4).toNat]? = some row → 0x81FF &&& row.mask = row.matchBits) ∧
    ((0x81FF : Word).extractLsb' 12 4 = 0x0 ↔ (offering (afterInit .eight) 0x81FF).phase = .uninit) ∧
    ((0x81FF : Word).extractLsb' 12 4 = 0x2 → (0x81FF : Word).getLsbD 8 = false) ∧
    ((0x81FF : Word).extractLsb' 4 4).toNat ≤ ((0x81FF : Word).extractLsb' 0 4).toNat ∧
    ∃ t, step (offering (afterInit .eight) 0x81FF) = .next t :=
  ⟨offered_offering _ _ rfl, clean_of (req := 0x81FF) rfl (by decide), by decide, by decide, by decide, _, rfl⟩

theorem witness_FaultEntryWritesOnlyTheRecord : (offering (afterInit .four) 0x2100).fault = none ∧
    ∃ t, step (offering (afterInit .four) 0x2100) = .next t ∧
      t.fault = some { kind := .readNotSupported, req := 0x2100 } := ⟨rfl, _, rfl, rfl⟩

theorem witness_HaltedBlockHasNoStep : ((afterInit .four).raise .invalidCoordinate 0x8073).fault =
    some { kind := .invalidCoordinate, req := 0x8073 } := by decide

theorem witness_StepTakesOneWord : (offering (afterInit .four) 0x5000).pending = 0x5000 :: [] ∧
    ∃ t, step (offering (afterInit .four) 0x5000) = .next t := ⟨rfl, _, rfl⟩

theorem witness_PowerOnMeetsTheInvariants : Config.vectorValues.wellFormed = true := by decide

/-- Also a witness of LevelsHoldStillDuringAPulse's first two hypotheses. -/
theorem witness_StepKeepsTheInvariants : (Inv State.reset ∧ ∃ t, step (offering State.reset 0x0000) = .next t) ∧
    (Inv (afterInit .eight) ∧ ∃ t, step (offering (afterInit .eight) 0x9000) = .next t) :=
  ⟨⟨inv_reset, _, rfl⟩, inv_afterInit_eight, _, rfl⟩

theorem witness_BlockStepsUnlessHalted : Inv (afterInit .four) ∧ (afterInit .four).fault = none :=
  ⟨inv_afterInit_four, rfl⟩

theorem witness_PhaseMovesOnlyByInit : AwaitingInit State.reset ∧
    ((∀ w, Instr.backspace ≠ .init w) ∧ ∃ t, exec .backspace (withCache (afterInit .four) 1 15) = .next t) ∧
    ((afterInit .four).phase = .ready ∧ ∃ t, step (offering (afterInit .four) 0x0000) = .next t) :=
  ⟨awaiting_reset, ⟨fun w => by cases w <;> decide, _, rfl⟩, rfl, _, rfl⟩

theorem witness_BusWidthIsWrittenOnce : AwaitingInit State.reset ∧
    ((∀ w, Instr.clearScreen ≠ .init w) ∧ ∃ t, exec .clearScreen State.reset = .next t) ∧
    ((afterInit .four).phase = .ready ∧ ∃ t, exec (.init .eight) (afterInit .four) = .next t) ∧ Inv (afterInit .four) :=
  ⟨awaiting_reset, ⟨fun w => by cases w <;> decide, _, rfl⟩, ⟨rfl, _, rfl⟩, inv_afterInit_four⟩

/-- Each of the requests answers a next state; also a witness of RequestsLeaveParametersAndPortAlone. -/
theorem witness_CursorCacheIsKept : ∀ i ∈ [Instr.transmit 0xA5, .sendCommand true false 0x41, .writeChar 0x48, .clearScreen,
    .shiftCursorRight, .shiftCursorLeft, .enableCursor, .disableCursor],
    (match exec i (withCache (afterInit .four) 1 15) with | .next t => t.fault | _ => some ⟨.reservedRequest, 0⟩) = none := by
  decide

/-- A request that writes the cache, and one that does not. -/
theorem witness_OnlyBackspaceReadsTheCursorCache :
    (Instr.clearChar 1 15 ≠ .backspace ∧ ∃ t, exec (.clearChar 1 15) (afterInit .eight) = .next t) ∧
    (Instr.writeChar 0x48 ≠ .backspace ∧ ∃ t, exec (.writeChar 0x48) (withCache (afterInit .four) 1 15) = .next t) :=
  ⟨⟨by decide, _, rfl⟩, by decide, _, rfl⟩

/-- Also a witness of LineKeepsItsLevelUntilItsNextEvent, RequestsLeaveParametersAndPortAlone and
HistoryDoesNotDependOnSettleTime. -/
theorem witness_HistoryOnlyGrows : (∃ t, step (offering (afterInit .four) 0x10A5) = .next t) ∧
    ∃ t, exec (.transmit 0xA5) (afterInit .four) = .next t := ⟨⟨_, rfl⟩, _, rfl⟩

/-- One for each clause of LineKeepsItsLevelUntilItsNextEvent: RS has no event, D6's last one sets it, D7's last one clears it. -/
theorem witness_LineKeepsItsLevelUntilItsNextEvent :
    ∃ evs, emitted (afterInit .four) 0x10A5 = some evs ∧ (∀ ev ∈ evs, ev ≠ .set .rs ∧ ev ≠ .clr .rs) ∧
      (∃ before after, evs = before ++ .set .d6 :: after ∧ ∀ ev ∈ after, ev ≠ .set .d6 ∧ ev ≠ .clr .d6) ∧
      (∃ before after, evs = before ++ .clr .d7 :: after ∧ ∀ ev ∈ after, ev ≠ .set .d7 ∧ ev ≠ .clr .d7) :=
  ⟨_, test_transmit_A5_four, by decide,
    ⟨[.clr .d7, .set .d7, .clr .d6, .clr .d5, .set .d5, .clr .d4, .set .e, .wait, .clr .e, .wait, .clr .d7, .clr .d6],
      _, rfl, by decide⟩,
    ⟨[.clr .d7, .set .d7, .clr .d6, .clr .d5, .set .d5, .clr .d4, .set .e, .wait, .clr .e, .wait], _, rfl, by decide⟩⟩

theorem witness_LevelsHoldStillDuringAPulse : Inv State.reset ∧
    ∃ t before after, step (offering State.reset 0x0000) = .next t ∧
      t.H = before ++ .set .e :: ([.wait] ++ .clr .e :: after) ∧ Event.clr .e ∉ [Event.wait] :=
  ⟨inv_reset, _, [.clr .rs, .clr .d7, .clr .d6, .clr .d5, .set .d5, .clr .d4, .set .d4], _, rfl, rfl, by decide⟩

theorem witness_FourModeLeavesLowDataLinesAlone :
    (∃ t, step (offering State.reset 0x0000) = .next t ∧ t.busWidth = some .four) ∧
    ∃ t, step (offering (afterInit .four) 0x10FF) = .next t ∧ t.busWidth = some .four := ⟨⟨_, rfl, rfl⟩, _, rfl, rfl⟩

/-- For TransmitInEightMode, TransmitInFourMode, FourModeSendsTheHighNibbleFirst, TransmitEventCounts, SendCommandWrites,
SetAddressByteIsSentAsAnInstruction, SetCursorMovesTheCursor, WriteCharSendsData, OneByteRequestsSendTheirInstruction,
ClearCharBlanksOneCell, ClearRowWritesFifteenSpaces and EquivalentRequests, whose one hypothesis this is. -/
theorem witness_ReadyWith : ReadyWith (afterInit .four) .four ∧ ReadyWith (afterInit .eight) .eight ∧
    (afterInit .four).phase = .ready := ⟨ready_afterInit .four, ready_afterInit .eight, rfl⟩

theorem witness_SendCommandReadRaisesReadNotSupported :
    (afterInit .four).fault = none ∧ (afterInit .four).phase = .ready := by decide

/-- Also for InitInitialises. -/
theorem witness_InitLatches : AwaitingInit State.reset ∧ (∃ t, exec (.init .four) State.reset = .next t) ∧
    ∃ t, exec (.init .eight) State.reset = .next t := ⟨awaiting_reset, ⟨_, rfl⟩, _, rfl⟩

theorem witness_RequestsOutOfSequenceRaise : (AwaitingInit State.reset ∧ ∀ w, Instr.transmit 0 ≠ .init w) ∧
    (afterInit .eight).fault = none ∧ (afterInit .eight).phase = .ready :=
  ⟨⟨awaiting_reset, fun w => by cases w <;> decide⟩, rfl, rfl⟩

/-- begin is end, the whole row, and begin one above end. -/
theorem witness_ClearSectionWritesItsColumns : ReadyWith (afterInit .four) .four ∧
    (15 : Column).toNat ≤ (15 : Column).toNat ∧ (0 : Column).toNat ≤ (15 : Column).toNat ∧
    (1 : Column).toNat > (0 : Column).toNat := ⟨ready_afterInit .four, by decide, by decide, by decide⟩

/-- Column 0, and columns 1 and 15. -/
theorem witness_BackspaceBlanksTheCellToTheLeft :
    (ReadyWith (afterInit .four) .four ∧ (afterInit .four).cursorRow = some 0 ∧
      (afterInit .four).cursorColumn = some 0) ∧
    (ReadyWith (withCache (afterInit .eight) 1 1) .eight ∧ (withCache (afterInit .eight) 1 1).cursorRow = some 1 ∧
      (withCache (afterInit .eight) 1 1).cursorColumn = some 1 ∧ (1 : Column).toNat = (0 : Column).toNat + 1) ∧
    (ReadyWith (withCache (afterInit .four) 0 15) .four ∧ (withCache (afterInit .four) 0 15).cursorRow = some 0 ∧
      (withCache (afterInit .four) 0 15).cursorColumn = some 15 ∧ (15 : Column).toNat = (14 : Column).toNat + 1) :=
  ⟨⟨ready_afterInit .four, rfl, rfl⟩, ⟨⟨rfl, rfl, rfl⟩, rfl, rfl, rfl⟩, ⟨rfl, rfl, rfl⟩, rfl, rfl, rfl⟩

/-- A performed request, init, and a request before init. -/
theorem witness_EveryRequestIsBounded :
    (ReadyWith (afterInit .four) .four ∧ ∃ t, exec (.clearSection 1 15 15) (afterInit .four) = .next t) ∧
    ((AwaitingInit State.reset ∧ ∀ w', Instr.init .four = .init w' → w' = .four) ∧
      ∃ t, exec (.init .four) State.reset = .next t) ∧
    ((AwaitingInit State.reset ∧ ∀ w', Instr.backspace = .init w' → w' = .eight) ∧
      ∃ t, exec .backspace State.reset = .next t) :=
  ⟨⟨ready_afterInit .four, _, rfl⟩, ⟨⟨awaiting_reset, fun w' => by cases w' <;> decide⟩, _, rfl⟩,
    ⟨awaiting_reset, fun w' => by cases w' <;> decide⟩, _, rfl⟩

theorem witness_LatchesReadBackAsTheBytesSent :
    (ReadyWith (afterInit .four) .four ∧
      ∃ t, exec (.clearSection 1 15 15) (afterInit .four) = .next t ∧ t.fault = none) ∧
    AwaitingInit State.reset ∧ ∃ t, exec (.init .four) State.reset = .next t :=
  ⟨⟨ready_afterInit .four, _, rfl, rfl⟩, awaiting_reset, _, rfl⟩

theorem witness_PulsesAndTimeOfEachRequest :
    (ReadyWith (afterInit .eight) .eight ∧ ∃ t, exec (.clearChar 1 15) (afterInit .eight) = .next t ∧ t.fault = none) ∧
    (AwaitingInit State.reset ∧ ∃ t, exec (.init .eight) State.reset = .next t ∧ t.fault = none) ∧
    (ReadyWith (afterInit .four) .four ∧
      ∃ t, exec (.clearSection 0 7 3) (afterInit .four) = .next t ∧ t.fault ≠ none) :=
  ⟨⟨ready_afterInit .eight, _, rfl, rfl⟩, ⟨awaiting_reset, _, rfl, rfl⟩, ready_afterInit .four, _, rfl, by decide⟩

theorem witness_RequestsAreIdempotent : Instr.setCursor 1 15 ≠ .backspace ∧ (∀ w, Instr.setCursor 1 15 ≠ .init w) ∧
    ∃ t, exec (.setCursor 1 15) (afterInit .four) = .next t ∧ t.fault = none :=
  ⟨by decide, fun w => by cases w <;> decide, _, rfl, rfl⟩

theorem witness_AssembledWordsFollowTheFormulas :
    0xFF ≤ 0xFF ∧ 1 ≤ 1 ∧ 1 ≤ 1 ∧ 1 ≤ 1 ∧ 15 ≤ 15 ∧ 15 ≤ 15 ∧ 15 ≤ 15 := by decide

theorem witness_WriteStringExpands : ∀ c ∈ [0x48, 0xFF], c ≤ 0xFF := by decide

/-- For the empty string and a string of one character. -/
theorem witness_WriteStringWritesItsBytesInOrder : ReadyWith (afterInit .four) .four ∧ (afterInit .four).pending = [] ∧
    ([] : List Byte) = [] ∧ ([0x48] : List Byte) ≠ [] := ⟨ready_afterInit .four, rfl, rfl, by decide⟩

end Sys2Proof.Machine
end

section
/-! PROOFS. The family 10_state.md: power-on values, and what requests and steps keep of the phase, the bus width and the
pin history. -/

namespace Sys2Proof.Machine

/-! ## Power-on -/

@[simp] theorem State.powerOn_phase (cfg : Config) : (State.powerOn cfg).phase = .uninit := rfl
@[simp] theorem State.powerOn_fault (cfg : Config) : (State.powerOn cfg).fault = none := rfl
@[simp] theorem State.powerOn_busWidth (cfg : Config) : (State.powerOn cfg).busWidth = none := rfl
@[simp] theorem State.powerOn_cursorRow (cfg : Config) : (State.powerOn cfg).cursorRow = none := rfl
@[simp] theorem State.powerOn_cursorColumn (cfg : Config) : (State.powerOn cfg).cursorColumn = none := rfl
@[simp] theorem State.powerOn_lvl (cfg : Config) : (State.powerOn cfg).lvl = cfg.lineResetLevel := rfl
@[simp] theorem State.powerOn_H (cfg : Config) : (State.powerOn cfg).H = [] := rfl

/-! ## The address table -/

theorem toNat_ddramAddress_row0 (c : Column) : (ddramAddress 0 c).toNat = 0x00 + c.toNat := by
  revert c; decide

theorem toNat_ddramAddress_row1 (c : Column) : (ddramAddress 1 c).toNat = 0x40 + c.toNat := by
  revert c; decide

/-! ## init, and the other requests before it -/

@[simp] theorem initialise_phase (w : BusWidth) (s : State) : (initialise w s).phase = .ready := by
  simp [initialise_eq]

@[simp] theorem initialise_busWidth (w : BusWidth) (s : State) : (initialise w s).busWidth = some w := by
  simp [initialise_eq]

theorem exec_init_of_uninit (w : BusWidth) {s : State} (hp : s.phase = .uninit) :
    exec (.init w) s = .next (initialise w s) := by
  have hk : check s.phase (encode (.init w)) = none := by simp [check_init, hp]
  simp only [exec, execInit]
  exact checked_of_none hk

theorem check_uninit_of_ne_init {i : Instr} (hi : ∀ w, i ≠ .init w) :
    check .uninit (encode i) = some .protocolSequenceViolation := by
  cases i with
  | init w => exact absurd rfl (hi w)
  | _ =>
    simp [check_transmit, check_sendCommand, check_setCursor, check_writeChar, check_clearScreen, check_clearChar,
      check_clearRow, check_clearSection, check_backspace, check_shiftCursorRight, check_shiftCursorLeft,
      check_enableCursor, check_disableCursor]

/-- Before init every other request is out of sequence (60_exceptions.md R161). -/
theorem exec_of_uninit {i : Instr} {s : State} (hi : ∀ w, i ≠ .init w) (hp : s.phase = .uninit) :
    exec i s = .next (s.raise .protocolSequenceViolation (encode i)) :=
  exec_of_check_some (by rw [hp]; exact check_uninit_of_ne_init hi)

/-! ## The phase and the bus width -/

theorem Performed.phase_busWidth {w : BusWidth} {s t : State} (h : Performed w s t) :
    t.phase = s.phase ∧ t.busWidth = s.busWidth := by
  cases h <;> simp

/-- In READY no request, init included, moves the phase or the width. -/
theorem Executed.phase_busWidth_of_ready {req : Word} {s t : State} (h : Executed req s t) (hp : s.phase = .ready) :
    t.phase = s.phase ∧ t.busWidth = s.busWidth := by
  cases h with
  | raised k hk => simp
  | initialised w hu => simp [hp] at hu
  | nothing => exact ⟨rfl, rfl⟩
  | performed w _ _ hq => exact hq.phase_busWidth

theorem exec_phase_busWidth_of_ne_init {i : Instr} {s t : State} (hi : ∀ w, i ≠ .init w) (h : exec i s = .next t) :
    t.phase = s.phase ∧ t.busWidth = s.busWidth := by
  cases hp : s.phase with
  | uninit =>
    rw [exec_of_uninit hi hp] at h
    cases h
    simp [hp]
  | ready => exact hp ▸ (exec_executed h).phase_busWidth_of_ready hp

theorem step_phase_of_ready {s t : State} (h : step s = .next t) (hp : s.phase = .ready) : t.phase = .ready := by
  cases step_stepped h with
  | idled => exact hp
  | rejected => exact hp
  | executed _ _ _ _ _ _ ht => exact ((exec_executed ht).phase_busWidth_of_ready hp).1.trans hp

/-! ## Elements that may hold no value are read only in READY -/

/-- In READY the width and the cache hold values, 10_state.md R35 (a). -/
def HoldsValuesWhenReady (s : State) : Prop :=
  s.phase = .ready → s.busWidth.isSome ∧ s.cursorRow.isSome ∧ s.cursorColumn.isSome

theorem Inv.holdsValuesWhenReady {s : State} (h : Inv s) : HoldsValuesWhenReady s := h.readyHolds

/-- The entry of a request that passes its check and reads the width. -/
theorem checked_withWidth_answers {req : Word} {s : State} {w : BusWidth}
    {body : State → BusWidth → Host.Outcome State Fault Refusal} (hk : check s.phase req = none)
    (hw : s.busWidth = some w) (hb : ∀ w, ∃ t, body s w = .next t) :
    ∃ t, checked req s (fun s => withWidth s (body s)) = .next t := by
  rw [checked_of_none hk, withWidth_of_some hw]
  exact hb w

theorem execBackspace_answers {s : State} {w : BusWidth} {r : Row} {c : Column}
    (hk : check s.phase (encode .backspace) = none) (hw : s.busWidth = some w) (hr : s.cursorRow = some r)
    (hc : s.cursorColumn = some c) : ∃ t, execBackspace s = .next t := by
  unfold execBackspace
  rw [checked_of_none hk, withCursor_of_some hr hc, withWidth_of_some hw]
  split <;> exact ⟨_, rfl⟩

/-- In READY a request records what its check finds, or reads elements that hold values. -/
theorem exec_answers_of_ready {i : Instr} {s : State} {w : BusWidth} {r : Row} {c : Column} (hp : s.phase = .ready)
    (hw : s.busWidth = some w) (hr : s.cursorRow = some r) (hc : s.cursorColumn = some c) :
    ∃ t, exec i s = .next t := by
  cases hk : check s.phase (encode i) with
  | some k => exact ⟨_, exec_of_check_some hk⟩
  | none =>
    cases i with
    | init w => simp [check_init, hp] at hk
    | backspace => exact execBackspace_answers hk hw hr hc
    | _ =>
      simp only [exec, execTransmit, execSendCommand, execSetCursor, execWriteChar, execClearScreen, execClearChar,
        execClearRow, execClearSection, execShiftCursorRight, execShiftCursorLeft, execEnableCursor, execDisableCursor]
      exact checked_withWidth_answers hk hw fun _ => ⟨_, rfl⟩

/-- Every request answers a next state, so none stops for reading an element that holds no value. -/
theorem exec_answers {i : Instr} {s : State} (hs : HoldsValuesWhenReady s) : ∃ t, exec i s = .next t := by
  cases hp : s.phase with
  | uninit =>
    by_cases hi : ∃ w, i = .init w
    · obtain ⟨w, rfl⟩ := hi
      exact ⟨_, exec_init_of_uninit w hp⟩
    · exact ⟨_, exec_of_uninit (fun w hw => hi ⟨w, hw⟩) hp⟩
  | ready =>
    obtain ⟨hw, hr, hc⟩ := hs hp
    obtain ⟨w, hw⟩ := Option.isSome_iff_exists.mp hw
    obtain ⟨r, hr⟩ := Option.isSome_iff_exists.mp hr
    obtain ⟨c, hc⟩ := Option.isSome_iff_exists.mp hc
    exact exec_answers_of_ready hp hw hr hc

theorem step_of_fault_some {s : State} {r : FaultRecord} (hf : s.fault = some r) :
    step s = .fault (.halted r.kind r.req) := by
  simp [step, State.haltReason, hf]

theorem step_answers {s : State} (hs : HoldsValuesWhenReady s) (hf : s.fault = none) : ∃ t, step s = .next t := by
  simp only [step, State.haltReason, hf]
  split
  · exact ⟨_, rfl⟩
  · split
    · exact ⟨_, rfl⟩
    · exact exec_answers hs

/-! ## The pin history -/

/-- `t` comes from `s` by appending events, and the levels follow them (10_state.md R25, R28). -/
def Emits (s t : State) : Prop := ∃ evs, t.H = s.H ++ evs ∧ t.lvl = replay s.lvl evs

theorem Emits.of_unchanged {s t : State} (hH : t.H = s.H) (hl : t.lvl = s.lvl) : Emits s t := ⟨[], by simp [hH], hl⟩

theorem Performed.emits {w : BusWidth} {s t : State} (h : Performed w s t) : Emits s t := by
  cases h <;> exact ⟨_, rfl, rfl⟩

theorem initialise_emits (w : BusWidth) (s : State) : Emits s (initialise w s) :=
  ⟨initEvents s.cfg w, by simp [initialise_eq], by simp [initialise_eq]⟩

theorem Executed.emits {req : Word} {s t : State} (h : Executed req s t) : Emits s t := by
  cases h with
  | raised => exact .of_unchanged rfl rfl
  | initialised w => exact initialise_emits w s
  | nothing => exact .of_unchanged rfl rfl
  | performed w _ _ hq => exact hq.emits

theorem step_emits {s t : State} (h : step s = .next t) : Emits s t := by
  cases step_stepped h with
  | idled => exact .of_unchanged rfl rfl
  | rejected => exact .of_unchanged rfl rfl
  | executed _ _ _ _ _ _ ht => exact (exec_executed ht).emits

/-! ## The obligations -/

/-- Settles O12: every element of the power-on state. -/
theorem powerOnValues : Obligations.PowerOnValues :=
  fun cfg => ⟨State.powerOn_phase cfg, State.powerOn_fault cfg, State.powerOn_busWidth cfg, State.powerOn_cursorRow cfg,
    State.powerOn_cursorColumn cfg, fun l => by rw [State.powerOn_lvl], State.powerOn_H cfg⟩

/-- Settles O34: row by row, over the 16 columns. -/
theorem addressTableEntries : Obligations.AddressTableEntries :=
  fun c => ⟨toNat_ddramAddress_row0 c, toNat_ddramAddress_row1 c⟩

/-- Settles O16: before init every other request only faults, and in READY nothing moves the phase. -/
theorem phaseMovesOnlyByInit : Obligations.PhaseMovesOnlyByInit := by
  refine ⟨State.powerOn_phase, fun w s hs => ?_, fun i s t hi h => ?_, fun s t h hp => ?_⟩
  · exact ⟨_, exec_init_of_uninit w hs.uninit, initialise_phase w s⟩
  · exact (exec_phase_busWidth_of_ne_init hi h).1
  · exact step_phase_of_ready h hp

/-- Settles O17: init alone writes the width, and by R35 (a) a block that is not halted has a step. -/
theorem busWidthIsWrittenOnce : Obligations.BusWidthIsWrittenOnce := by
  refine ⟨State.powerOn_busWidth, fun w s hs => ?_, fun i s t hi h => ?_, fun i s t hp h => ?_, fun s hs h => ?_⟩
  · exact ⟨_, exec_init_of_uninit w hs.uninit, initialise_busWidth w s⟩
  · exact (exec_phase_busWidth_of_ne_init hi h).2
  · exact ((exec_executed h).phase_busWidth_of_ready hp).2
  · cases hf : s.fault with
    | some r => simp [step_of_fault_some hf] at h
    | none =>
      obtain ⟨t, ht⟩ := step_answers hs.holdsValuesWhenReady hf
      simp [ht] at h

/-- Settles O20: whatever a step does, the events of its request are appended. -/
theorem historyOnlyGrows : Obligations.HistoryOnlyGrows := by
  refine ⟨State.powerOn_H, fun s t h => ?_⟩
  obtain ⟨evs, hH, -⟩ := step_emits h
  exact ⟨evs, hH⟩

end Sys2Proof.Machine
end

section
/-! PROOFS. The family 20_memory.md: the data bus, in one or two transactions a byte, and the set-address byte. -/

namespace Sys2Proof.Machine

/-! ## What the requests answer in READY -/

theorem exec_transmit_of_ready {s : State} {w : BusWidth} (h : ReadyWith s w) (b : Byte) :
    exec (.transmit b) s = .next (transmit w b s) := by
  have hk : check s.phase (encode (.transmit b)) = none := by simp [check_transmit, h.ready]
  simp only [exec, execTransmit]
  rw [checked_of_none hk, withWidth_of_some h.width]

theorem exec_setCursor_of_ready {s : State} {w : BusWidth} (h : ReadyWith s w) (r : Row) (c : Column) :
    exec (.setCursor r c) s = .next (setCursor w r c s) := by
  have hk : check s.phase (encode (.setCursor r c)) = none := by simp [check_setCursor, h.ready]
  simp only [exec, execSetCursor]
  rw [checked_of_none hk, withWidth_of_some h.width]

theorem newEvents_transmit (w : BusWidth) (b : Byte) (s : State) :
    newEvents s.H (transmit w b s).H = byteEvents w b := by
  rw [transmit_eq, State.emitAll_H, newEvents_append]

theorem newEvents_setCursor (w : BusWidth) (r : Row) (c : Column) (s : State) :
    newEvents s.H (setCursor w r c s).H = setCursorEvents w r c := by
  rw [setCursor_eq, State.emitAll_H, State.setCursorCache_H, newEvents_append]

/-! ## The latches of a byte, and of a command -/

/-- One transaction: lines other than E are driven, and the pulse latches what they then hold. -/
theorem latchesFrom_transaction (lv : Levels) (ls : List (Line × Level)) (h : ∀ p ∈ ls, p.1 ≠ .e) :
    latchesFrom lv (linesEvents ls ++ pulseEvents) = [latchOf (replay lv (linesEvents ls))] := by
  rw [latchesFrom_append, latchesFrom_linesEvents lv ls h, latchesFrom_pulseEvents, List.nil_append]

theorem latchesFrom_byteEvents_eight (lv : Levels) (b : Byte) :
    latchesFrom lv (byteEvents .eight b) = [{ rs := lv.rs, rw := lv.rw, data := b }] := by
  simp only [byteEvents]
  rw [latchesFrom_transaction lv _ (byteLines_ne_e b), latchOf_byteLines]

/-- A second nibble driven after a first one and its pulse replaces it, under the same RS, RW and D3..D0. -/
theorem latchOf_second_nibble (lv : Levels) (n m : Nibble) :
    latchOf (replay (replay lv (linesEvents (nibbleLines n) ++ pulseEvents)) (linesEvents (nibbleLines m))) =
      { rs := lv.rs, rw := lv.rw, data := m ++ lowNibble lv.dataByte } := by
  have first : latchOf (replay lv (linesEvents (nibbleLines n) ++ pulseEvents)) =
      { rs := lv.rs, rw := lv.rw, data := n ++ lowNibble lv.dataByte } := by
    rw [replay_append, ← latchOf_nibbleLines]
    rfl
  obtain ⟨hrs, hrw, hdata⟩ := Latch.mk.inj first
  rw [latchOf_nibbleLines, hrs, hrw, hdata, lowNibble_append]

/-- FOUR mode: the high nibble's transaction, then the low nibble's (20_memory.md R47). -/
theorem latchesFrom_byteEvents_four (lv : Levels) (b : Byte) :
    latchesFrom lv (byteEvents .four b) =
      [{ rs := lv.rs, rw := lv.rw, data := highNibble b ++ lowNibble lv.dataByte },
       { rs := lv.rs, rw := lv.rw, data := lowNibble b ++ lowNibble lv.dataByte }] := by
  simp only [byteEvents]
  rw [List.append_assoc, latchesFrom_append, latchesFrom_transaction _ _ (nibbleLines_ne_e _),
    latchesFrom_transaction _ _ (nibbleLines_ne_e _), latchOf_nibbleLines, latchOf_second_nibble, List.singleton_append]

/-- Transmit's byte is read back under the mode lines as they stand. -/
theorem readBytes_byteEvents (lv : Levels) (w : BusWidth) (b : Byte) :
    readBytes w (latchesFrom lv (byteEvents w b)) = [{ rs := lv.rs, rw := lv.rw, byte := b }] := by
  cases w with
  | eight => rw [latchesFrom_byteEvents_eight]; rfl
  | four =>
    rw [latchesFrom_byteEvents_four]
    simp only [readBytes, highNibble_append, nibbles_append]

/-- A command's byte is read back under the RS and RW it was sent with. -/
theorem readBytes_commandEvents (lv : Levels) (w : BusWidth) (rs rw : Level) (b : Byte) :
    readBytes w (latchesFrom lv (commandEvents w rs rw b)) = [{ rs := rs, rw := rw, byte := b }] := by
  simp only [commandEvents, latchesFrom_append, replay_append, replay_driveEvents]
  rw [latchesFrom_driveEvents _ _ _ (by decide), latchesFrom_driveEvents _ _ _ (by decide)]
  exact readBytes_byteEvents ((lv.put .rs rs).put .rw rw) w b

/-! ## The bits of nibbles -/

/-- A nibble on D7..D4 stands in the upper four bits of the latched byte. -/
theorem getLsbD_append_high (n low : Nibble) (i : Nat) : (n ++ low : Byte).getLsbD (i + 4) = n.getLsbD i :=
  BitVec.getLsbD_append.trans (by simp)

theorem getLsbD_highNibble (b : Byte) {i : Nat} (hi : i < 4) : (highNibble b).getLsbD i = b.getLsbD (4 + i) := by
  simp [highNibble, hi]

theorem getLsbD_lowNibble (b : Byte) {i : Nat} (hi : i < 4) : (lowNibble b).getLsbD i = b.getLsbD i := by
  simp [lowNibble, hi]

/-! ## The set-address byte -/

theorem getLsbD_setAddressByte_seven (r : Row) (c : Column) : (setAddressByte r c).getLsbD 7 = true := by
  simp [setAddressByte]

theorem extractLsb'_setAddressByte (r : Row) (c : Column) :
    (setAddressByte r c).extractLsb' 0 7 = ddramAddress r c := by
  unfold setAddressByte
  generalize ddramAddress r c = a
  revert a; decide

/-- The address has 7 bits, so setting bit 7 adds 0x80. -/
theorem toNat_setAddressByte (r : Row) (c : Column) :
    (setAddressByte r c).toNat = 0x80 + (ddramAddress r c).toNat := by
  unfold setAddressByte
  generalize ddramAddress r c = a
  revert a; decide

theorem toNat_setAddressByte_row0 (c : Column) : (setAddressByte 0 c).toNat = 0x80 + c.toNat := by
  rw [toNat_setAddressByte, toNat_ddramAddress_row0]; omega

theorem toNat_setAddressByte_row1 (c : Column) : (setAddressByte 1 c).toNat = 0xC0 + c.toNat := by
  rw [toNat_setAddressByte, toNat_ddramAddress_row1]; omega

/-- SetCursor puts the set-address byte, and nothing else, on the bus, with RS = 0 and RW = 0. -/
theorem readBytes_setCursor (w : BusWidth) (r : Row) (c : Column) (s : State) :
    readBytes w (latchesFrom s.lvl (newEvents s.H (setCursor w r c s).H)) =
      [{ rs := false, rw := false, byte := setAddressByte r c }] := by
  rw [newEvents_setCursor]
  exact readBytes_commandEvents s.lvl w false false (setAddressByte r c)

/-! ## The obligations -/

/-- Settles O27: the two latches are the two nibbles over D3..D0 as they stand, and a nibble's bits are the byte's. -/
theorem fourModeSendsTheHighNibbleFirst : Obligations.FourModeSendsTheHighNibbleFirst := by
  intro s b hs
  refine ⟨_, _, _, exec_transmit_of_ready hs b,
    (congrArg _ (newEvents_transmit .four b s)).trans (latchesFrom_byteEvents_four s.lvl b), ?_⟩
  have high (i : Nat) (hi : i < 4) :
      (highNibble b ++ lowNibble s.lvl.dataByte : Byte).getLsbD (i + 4) = b.getLsbD (4 + i) := by
    rw [getLsbD_append_high, getLsbD_highNibble b hi]
  have low (i : Nat) (hi : i < 4) :
      (lowNibble b ++ lowNibble s.lvl.dataByte : Byte).getLsbD (i + 4) = b.getLsbD i := by
    rw [getLsbD_append_high, getLsbD_lowNibble b hi]
  exact ⟨high 3 (by decide), high 2 (by decide), high 1 (by decide), high 0 (by decide),
    low 3 (by decide), low 2 (by decide), low 1 (by decide), low 0 (by decide)⟩

/-- Settles O35: the byte's bits and values, and the one byte that SetCursor sends in either width. -/
theorem setAddressByteIsSentAsAnInstruction : Obligations.SetAddressByteIsSentAsAnInstruction :=
  ⟨fun r c => ⟨getLsbD_setAddressByte_seven r c, extractLsb'_setAddressByte r c⟩,
    fun c => ⟨toNat_setAddressByte_row0 c, toNat_setAddressByte_row1 c⟩,
    fun s w r c => readBytes_setCursor w r c s,
    fun _ _ r c h => exec_setCursor_of_ready h r c⟩

end Sys2Proof.Machine
end

section
/-! PROOFS. The family 30_encoding.md: the words that raise ReservedRequest, and the words the assembler makes. -/

namespace Sys2Proof.Machine

/-! ## Words the decoder rejects -/

/-- A word is rejected when the row its opcode selects, if there is one, does not match it (30_encoding.md R64, R66). -/
theorem decode_error_of_no_match {req : Word}
    (h : ∀ row, rowOfOp (opField req) = some row → req &&& row.mask ≠ row.matchBits) :
    ∃ reason, decode req = .error reason := by
  unfold decode
  cases hrow : rowOfOp (opField req) with
  | none => exact ⟨_, rfl⟩
  | some row => exact ⟨_, if_neg (h row hrow)⟩

/-- A rejected word is taken and recorded, in either phase. -/
theorem step_of_decode_error {s : State} {req : Word} {rest : List Word} {reason : DecodeReject}
    (hs : Offered s req rest) (hd : decode req = .error reason) :
    step s = .next (s.takeRequest.raise .reservedRequest req) := by
  simp [step, State.haltReason, hs.notHalted, State.fetch, hs.port, hd, rejectWord]

theorem recordsOnly_takeRequest_raise (s : State) (kind : FaultKind) (req : Word) :
    RecordsOnly s (s.takeRequest.raise kind req) kind req := by
  constructor <;> simp

/-! ## Operands in their fields

An operand that fits its field (30_encoding.md R63, R70) is the same number in the field and in the word. -/

theorem setWidth_ofNat_row {r : Nat} (hr : r ≤ 1) : (BitVec.ofNat 1 r).setWidth 16 = BitVec.ofNat 16 r :=
  BitVec.setWidth_ofNat_of_le_of_lt (by decide) (by omega)

theorem setWidth_ofNat_column {c : Nat} (hc : c ≤ 15) : (BitVec.ofNat 4 c).setWidth 16 = BitVec.ofNat 16 c :=
  BitVec.setWidth_ofNat_of_le_of_lt (by decide) (by omega)

theorem setWidth_ofNat_byte {b : Nat} (hb : b ≤ 0xFF) : (BitVec.ofNat 8 b).setWidth 16 = BitVec.ofNat 16 b :=
  BitVec.setWidth_ofNat_of_le_of_lt (by decide) (by omega)

theorem setWidth_ofBool_level {v : Nat} (hv : v ≤ 1) : (BitVec.ofBool (v == 1)).setWidth 16 = BitVec.ofNat 16 v := by
  obtain rfl | rfl := Nat.le_one_iff_eq_zero_or_eq_one.mp hv <;> rfl

theorem ofNat_shiftLeft (w x n : Nat) : BitVec.ofNat w (x <<< n) = BitVec.ofNat w x <<< n := by
  apply BitVec.eq_of_toNat_eq
  simp [Nat.shiftLeft_eq]

/-! ## The word of each request with operands, by the formulas of R71 -/

theorem encode_transmit_ofNat {b : Nat} (hb : b ≤ 0xFF) :
    encode (.transmit (BitVec.ofNat 8 b)) = BitVec.ofNat 16 (0x1000 ||| b) := by
  simp only [encode, setWidth_ofNat_byte hb, BitVec.ofNat_or, BitVec.ofNat_eq_ofNat]

theorem encode_sendCommand_ofNat {s d b : Nat} (hs : s ≤ 1) (hd : d ≤ 1) (hb : b ≤ 0xFF) :
    encode (.sendCommand (s == 1) (d == 1) (BitVec.ofNat 8 b)) =
      BitVec.ofNat 16 (0x2000 ||| s <<< 9 ||| d <<< 8 ||| b) := by
  simp only [encode, setWidth_ofBool_level hs, setWidth_ofBool_level hd, setWidth_ofNat_byte hb,
    BitVec.ofNat_or, ofNat_shiftLeft, BitVec.natCast_eq_ofNat]

theorem encode_setCursor_ofNat {r c : Nat} (hr : r ≤ 1) (hc : c ≤ 15) :
    encode (.setCursor (BitVec.ofNat 1 r) (BitVec.ofNat 4 c)) = BitVec.ofNat 16 (0x3000 ||| r <<< 8 ||| c) := by
  simp only [encode, setWidth_ofNat_row hr, setWidth_ofNat_column hc,
    BitVec.ofNat_or, ofNat_shiftLeft, BitVec.natCast_eq_ofNat]

theorem encode_writeChar_ofNat {b : Nat} (hb : b ≤ 0xFF) :
    encode (.writeChar (BitVec.ofNat 8 b)) = BitVec.ofNat 16 (0x4000 ||| b) := by
  simp only [encode, setWidth_ofNat_byte hb, BitVec.ofNat_or, BitVec.ofNat_eq_ofNat]

theorem encode_clearChar_ofNat {r c : Nat} (hr : r ≤ 1) (hc : c ≤ 15) :
    encode (.clearChar (BitVec.ofNat 1 r) (BitVec.ofNat 4 c)) = BitVec.ofNat 16 (0x6000 ||| r <<< 8 ||| c) := by
  simp only [encode, setWidth_ofNat_row hr, setWidth_ofNat_column hc,
    BitVec.ofNat_or, ofNat_shiftLeft, BitVec.natCast_eq_ofNat]

theorem encode_clearRow_ofNat {r : Nat} (hr : r ≤ 1) :
    encode (.clearRow (BitVec.ofNat 1 r)) = BitVec.ofNat 16 (0x7000 ||| r <<< 8) := by
  simp only [encode, setWidth_ofNat_row hr, BitVec.ofNat_or, ofNat_shiftLeft, BitVec.natCast_eq_ofNat]

theorem encode_clearSection_ofNat {r g e : Nat} (hr : r ≤ 1) (hg : g ≤ 15) (he : e ≤ 15) :
    encode (.clearSection (BitVec.ofNat 1 r) (BitVec.ofNat 4 g) (BitVec.ofNat 4 e)) =
      BitVec.ofNat 16 (0x8000 ||| r <<< 8 ||| g <<< 4 ||| e) := by
  simp only [encode, setWidth_ofNat_row hr, setWidth_ofNat_column hg, setWidth_ofNat_column he,
    BitVec.ofNat_or, ofNat_shiftLeft, BitVec.natCast_eq_ofNat]

/-! ## The words of a line -/

@[simp] theorem rowFits_iff (n : Nat) : rowFits n = true ↔ n ≤ 1 := decide_eq_true_iff
@[simp] theorem columnFits_iff (n : Nat) : columnFits n = true ↔ n ≤ 15 := decide_eq_true_iff
@[simp] theorem byteFits_iff (n : Nat) : byteFits n = true ↔ n ≤ 0xFF := decide_eq_true_iff
@[simp] theorem levelFits_iff (n : Nat) : levelFits n = true ↔ n ≤ 1 := decide_eq_true_iff

theorem assemble_of_wellFormed {l : AsmLine} (h : l.wellFormed = true) :
    assemble l = some ((requestsOf l).map encode) := if_pos h

/-- A line that fits and stands for one request makes that request's word. -/
theorem assemble_eq_word {l : AsmLine} {i : Instr} {word : Word} (h : l.wellFormed = true) (hi : requestsOf l = [i])
    (hw : encode i = word) : assemble l = some [word] := by
  rw [assemble_of_wellFormed h, hi, List.map_singleton, hw]

theorem wellFormed_writeString {codes : List Nat} (h : ∀ c ∈ codes, c ≤ 0xFF) :
    (AsmLine.writeString codes).wellFormed = true :=
  List.all_eq_true.mpr fun c hc => (byteFits_iff c).mpr (h c hc)

/-! ## The obligations -/

/-- Settles O6: no row matches the word, so the decoder rejects it, and a step records it and nothing else. -/
theorem reservedWordsRaiseReservedRequest : Obligations.ReservedWordsRaiseReservedRequest := by
  intro s req rest hs hrow
  obtain ⟨reason, hd⟩ := decode_error_of_no_match hrow
  exact ⟨_, step_of_decode_error hs hd, recordsOnly_takeRequest_raise s .reservedRequest req⟩

/-- Settles O48: each line fits, stands for one request, and that request's word is the formula's. -/
theorem assembledWordsFollowTheFormulas : Obligations.AssembledWordsFollowTheFormulas := by
  intro b s d r c g e hb hs hd hr hc hg he
  refine ⟨rfl, rfl, ?transmit, ?sendCommand, ?setCursor, ?writeChar, rfl, ?clearChar, ?clearRow, ?clearSection,
    rfl, rfl, rfl, rfl, rfl⟩
  case transmit => exact assemble_eq_word (by simp [AsmLine.wellFormed, hb]) rfl (encode_transmit_ofNat hb)
  case sendCommand =>
    exact assemble_eq_word (by simp [AsmLine.wellFormed, hs, hd, hb]) rfl (encode_sendCommand_ofNat hs hd hb)
  case setCursor => exact assemble_eq_word (by simp [AsmLine.wellFormed, hr, hc]) rfl (encode_setCursor_ofNat hr hc)
  case writeChar => exact assemble_eq_word (by simp [AsmLine.wellFormed, hb]) rfl (encode_writeChar_ofNat hb)
  case clearChar => exact assemble_eq_word (by simp [AsmLine.wellFormed, hr, hc]) rfl (encode_clearChar_ofNat hr hc)
  case clearRow => exact assemble_eq_word (by simp [AsmLine.wellFormed, hr]) rfl (encode_clearRow_ofNat hr)
  case clearSection =>
    exact assemble_eq_word (by simp [AsmLine.wellFormed, hr, hg, he]) rfl (encode_clearSection_ofNat hr hg he)

/-- Settles O49: a string whose codes fit is well formed, and each code's request is write_char of it. -/
theorem writeStringExpands : Obligations.WriteStringExpands := by
  refine ⟨rfl, fun codes h => ?_⟩
  rw [assemble_of_wellFormed (wellFormed_writeString h), requestsOf, List.map_map]
  exact congrArg some (List.map_congr_left fun c hc => encode_writeChar_ofNat (h c hc))

end Sys2Proof.Machine
end

section
/-! PROOFS. The family 40_bus_encoder.md: what transmit emits, and the levels it leaves, in either width. -/

namespace Sys2Proof.Machine

/-! ## The events of a byte, line by line -/

theorem linesEvents_byteLines (b : Byte) :
    linesEvents (byteLines b) =
      driveEvents .d7 (b.getLsbD 7) ++ driveEvents .d6 (b.getLsbD 6) ++ driveEvents .d5 (b.getLsbD 5) ++
      driveEvents .d4 (b.getLsbD 4) ++ driveEvents .d3 (b.getLsbD 3) ++ driveEvents .d2 (b.getLsbD 2) ++
      driveEvents .d1 (b.getLsbD 1) ++ driveEvents .d0 (b.getLsbD 0) := by
  simp [linesEvents, byteLines]

theorem linesEvents_nibbleLines (n : Nibble) :
    linesEvents (nibbleLines n) =
      driveEvents .d7 (n.getLsbD 3) ++ driveEvents .d6 (n.getLsbD 2) ++ driveEvents .d5 (n.getLsbD 1) ++
      driveEvents .d4 (n.getLsbD 0) := by
  simp [linesEvents, nibbleLines]

theorem linesEvents_highNibble (b : Byte) :
    linesEvents (nibbleLines (highNibble b)) =
      driveEvents .d7 (b.getLsbD 7) ++ driveEvents .d6 (b.getLsbD 6) ++ driveEvents .d5 (b.getLsbD 5) ++
      driveEvents .d4 (b.getLsbD 4) := by
  simp (disch := decide) only [linesEvents_nibbleLines, getLsbD_highNibble, Nat.reduceAdd]

theorem linesEvents_lowNibble (b : Byte) :
    linesEvents (nibbleLines (lowNibble b)) =
      driveEvents .d7 (b.getLsbD 3) ++ driveEvents .d6 (b.getLsbD 2) ++ driveEvents .d5 (b.getLsbD 1) ++
      driveEvents .d4 (b.getLsbD 0) := by
  simp (disch := decide) only [linesEvents_nibbleLines, getLsbD_lowNibble]

/-! ## The state after transmit -/

/-- In READY, transmit appends its byte's events and moves the lines they drive; it writes no other element (R83 to R85). -/
theorem exec_transmit_eq_emitted {s : State} {w : BusWidth} (h : ReadyWith s w) (b : Byte) :
    exec (.transmit b) s = .next { s with H := s.H ++ byteEvents w b, lvl := s.lvl.afterByte w b } := by
  rw [exec_transmit_of_ready h, transmit_eq, State.emitAll, replay_byteEvents]

/-! ## The obligations -/

/-- Settles O25: one transaction, whose lines are the byte's eight bits. -/
theorem transmitInEightMode : Obligations.TransmitInEightMode := by
  intro s b hs
  rw [exec_transmit_eq_emitted hs, byteEvents, linesEvents_byteLines]
  rfl

/-- Settles O26: two transactions, whose lines are the high nibble's bits and then the low nibble's. -/
theorem transmitInFourMode : Obligations.TransmitInFourMode := by
  intro s b hs
  rw [exec_transmit_eq_emitted hs, byteEvents, linesEvents_highNibble, linesEvents_lowNibble]
  simp only [List.append_assoc]
  rfl

end Sys2Proof.Machine
end

section
/-! PROOFS. The family 60_exceptions.md: the order of the check's tests, and what fault entry writes. -/

namespace Sys2Proof.Machine

/-! ## The word of a decoded request

The record holds the encoding of the decoded request (log 16). An operand field put back in its place is the word under
that field's bits, and the fields of a row cover the bits that its mask leaves out (30_encoding.md R63, R65). -/

theorem byteField_placed (req : Word) : (byteField req).setWidth 16 = req &&& 0x00FF := by
  ext i hi
  interval_cases i <;> simp [byteField]

theorem lowColumnField_placed (req : Word) : (lowColumnField req).setWidth 16 = req &&& 0x000F := by
  ext i hi
  interval_cases i <;> simp [lowColumnField]

theorem highColumnField_placed (req : Word) : (highColumnField req).setWidth 16 <<< 4 = req &&& 0x00F0 := by
  ext i hi
  interval_cases i <;> simp [highColumnField]

theorem rowField_placed (req : Word) : (rowField req).setWidth 16 <<< 8 = req &&& 0x0100 := by
  ext i hi
  interval_cases i <;> simp [rowField]

theorem rwBit_placed (req : Word) : (BitVec.ofBool (req.getLsbD 8)).setWidth 16 <<< 8 = req &&& 0x0100 := by
  ext i hi
  interval_cases i <;> simp

theorem rsBit_placed (req : Word) : (BitVec.ofBool (req.getLsbD 9)).setWidth 16 <<< 9 = req &&& 0x0200 := by
  ext i hi
  interval_cases i <;> simp

theorem widthField_placed (req : Word) : (widthField req).bit.setWidth 16 = req &&& 0x0001 := by
  unfold widthField
  ext i hi
  cases h : req.getLsbD 0 <;> interval_cases i <;> simp_all [BusWidth.bit]

/-- The match bits are the word under the mask, so with the operand fields they make the whole word. -/
theorem encode_build_of_match (req : Word) :
    ∀ row ∈ opcodeTable, req &&& row.mask = row.matchBits → encode (row.build req) = req := by
  simp only [opcodeTable, List.forall_mem_cons, List.not_mem_nil, false_imp_iff, implies_true, and_true]
  and_intros
  all_goals
    intro hm
    simp only [BitVec.ofNat_eq_ofNat] at hm
    simp only [encode, BitVec.ofNat_eq_ofNat, BitVec.natCast_eq_ofNat, ← hm, byteField_placed, lowColumnField_placed,
      highColumnField_placed, rowField_placed, rwBit_placed, rsBit_placed, widthField_placed,
      ← BitVec.and_or_distrib_left]
    exact BitVec.and_allOnes

theorem encode_of_decode {req : Word} {i : Instr} (h : decode req = .ok i) : encode i = req := by
  unfold decode at h
  split at h
  · cases h
  · rename_i row hrow
    split at h
    · rename_i hm
      cases h
      exact encode_build_of_match req row (List.mem_of_getElem? hrow) hm
    · cases h

/-! ## The tests of the check, for a word that matches its row -/

/-- The word's opcode has a row in the table, and the word has no reserved bit set: it passes the check's first
two tests (60_exceptions.md R161). -/
def MatchesItsRow (req : Word) : Prop := ∃ row, rowOfOp (opField req) = some row ∧ req &&& row.mask = row.matchBits

theorem rowOfOp_eq_none_iff (op : BitVec 4) : rowOfOp op = none ↔ op = 0xE ∨ op = 0xF := by
  rw [rowOfOp, List.getElem?_eq_none_iff]
  revert op
  decide

theorem matchesItsRow_of_clean {req : Word} (hr : ¬ (opField req = 0xE ∨ opField req = 0xF))
    (hc : ∀ row, rowOfOp (opField req) = some row → req &&& row.mask = row.matchBits) : MatchesItsRow req := by
  obtain ⟨row, hrow⟩ := Option.ne_none_iff_exists'.mp (mt (rowOfOp_eq_none_iff (opField req)).mp hr)
  exact ⟨row, hrow, hc row hrow⟩

section
variable {req : Word} (h : MatchesItsRow req)
include h

theorem check_init_in_ready (hop : opField req = 0#4) : check .ready req = some .protocolSequenceViolation := by
  obtain ⟨row, hrow, hm⟩ := h
  rw [check, hrow]
  simp [hm, hop]

theorem check_other_in_uninit (hop : opField req ≠ 0#4) : check .uninit req = some .protocolSequenceViolation := by
  obtain ⟨row, hrow, hm⟩ := h
  rw [check, hrow]
  simp [hm, hop]

theorem check_read_in_ready (hop : opField req = 2#4) (hrw : req.getLsbD 8 = true) :
    check .ready req = some .readNotSupported := by
  obtain ⟨row, hrow, hm⟩ := h
  rw [check, hrow]
  simp [hm, hop, hrw]

theorem check_reversed_section_in_ready (hop : opField req = 8#4) (hge : highColumnField req > lowColumnField req) :
    check .ready req = some .invalidCoordinate := by
  obtain ⟨row, hrow, hm⟩ := h
  rw [check, hrow]
  simp [hm, hop, hge]

/-- A word that is in sequence, no read and no reversed section passes every test. -/
theorem check_eq_none {p : Phase} (hseq : opField req = 0#4 ↔ p = .uninit)
    (hread : opField req = 2#4 → req.getLsbD 8 = false)
    (hsection : opField req = 8#4 → highColumnField req ≤ lowColumnField req) : check p req = none := by
  obtain ⟨row, hrow, hm⟩ := h
  rw [check, hrow]
  cases p with
  | uninit => simp [hm, hseq.mpr rfl]
  | ready =>
    have h0 : opField req ≠ 0#4 := fun hop => nomatch hseq.mp hop
    by_cases h2 : opField req = 2#4
    · simpa [hm, h2] using hread h2
    · by_cases h8 : opField req = 8#4
      · simp [hm, h8, BitVec.not_lt.mpr (hsection h8)]
      · simp [hm, h0, h2, h8]

end

/-! ## A step is decided by the check of the word on offer -/

theorem check_of_decode_error {req : Word} {reason : DecodeReject} (h : decode req = .error reason) (p : Phase) :
    check p req = some .reservedRequest := by
  unfold decode at h
  unfold check
  cases hrow : rowOfOp (opField req) with
  | none => rfl
  | some row =>
    have hm : req &&& row.mask ≠ row.matchBits := by
      intro hm
      simp [hrow, hm] at h
    exact if_pos hm

theorem step_of_pending_nil {s : State} (hf : s.fault = none) (hp : s.pending = []) : step s = .next s := by
  simp [step, State.haltReason, hf, State.fetch, hp, idle]

section
variable {s : State} {req : Word} {rest : List Word} (hs : Offered s req rest)
include hs

theorem step_of_decode_ok {i : Instr} (hd : decode req = .ok i) : step s = exec i s.takeRequest := by
  simp [step, State.haltReason, hs.notHalted, State.fetch, hs.port, hd]

/-- Whether the decoder or the request's entry finds the kind, the record is the word on offer. -/
theorem step_of_check_some {k : FaultKind} (hk : check s.phase req = some k) :
    step s = .next (s.takeRequest.raise k req) := by
  cases hd : decode req with
  | error reason =>
    rw [check_of_decode_error hd] at hk
    cases hk
    exact step_of_decode_error hs hd
  | ok i =>
    rw [step_of_decode_ok hs hd]
    obtain rfl := encode_of_decode hd
    exact exec_of_check_some hk

theorem step_records_of_check_some {k : FaultKind} (hk : check s.phase req = some k) :
    ∃ t, step s = .next t ∧ RecordsOnly s t k req :=
  ⟨_, step_of_check_some hs hk, recordsOnly_takeRequest_raise s k req⟩

theorem step_fault_of_check_none {t : State} (hk : check s.phase req = none) (h : step s = .next t) :
    t.fault = none := by
  cases hd : decode req with
  | error reason => simp [check_of_decode_error hd] at hk
  | ok i =>
    rw [step_of_decode_ok hs hd] at h
    obtain rfl := encode_of_decode hd
    have ht : t.fault = s.takeRequest.fault := exec_fault_of_check_none (s := s.takeRequest) hk h
    exact ht.trans hs.notHalted

end

/-- A step into a faulted state is fault entry for the word on offer. -/
theorem eq_raise_of_step_faults {s t : State} {r : FaultRecord} (hf : s.fault = none) (h : step s = .next t)
    (hr : t.fault = some r) : ∃ rest, s.pending = r.req :: rest ∧ t = s.takeRequest.raise r.kind r.req := by
  cases hp : s.pending with
  | nil =>
    rw [step_of_pending_nil hf hp] at h
    cases h
    simp [hf] at hr
  | cons req rest =>
    have hs : Offered s req rest := ⟨hf, hp⟩
    cases hk : check s.phase req with
    | none => simp [step_fault_of_check_none hs hk h] at hr
    | some k =>
      rw [step_of_check_some hs hk] at h
      cases h
      cases hr
      exact ⟨rest, rfl, rfl⟩

/-! ## The obligations -/

/-- Settles O7: a word that matches no row is O6's, and for the others each clause is one result of the check. -/
theorem checkOrderDecidesTheRecordedKind : Obligations.CheckOrderDecidesTheRecordedKind := by
  intro s req rest hs op reserved clean raises
  have hmatch : ¬ reserved → clean → MatchesItsRow req := matchesItsRow_of_clean
  have raises_of_check {k : FaultKind} : check s.phase req = some k → raises k := step_records_of_check_some hs
  refine ⟨?reservedOpcode, ?reservedBit, ?initInReady, ?otherInUninit, ?read, ?reversedSection, ?passes⟩
  case reservedOpcode =>
    intro hr
    refine reservedWordsRaiseReservedRequest s req rest hs fun row hrow => ?_
    cases ((rowOfOp_eq_none_iff op).mpr hr).symm.trans hrow
  case reservedBit =>
    intro _ hc
    refine reservedWordsRaiseReservedRequest s req rest hs fun row hrow hm => hc fun row' hrow' => ?_
    cases hrow.symm.trans hrow'
    exact hm
  case initInReady => exact fun hr hc hop hp => raises_of_check (hp ▸ check_init_in_ready (hmatch hr hc) hop)
  case otherInUninit => exact fun hr hc hop hp => raises_of_check (hp ▸ check_other_in_uninit (hmatch hr hc) hop)
  case read => exact fun hr hc hp hop hrw => raises_of_check (hp ▸ check_read_in_ready (hmatch hr hc) hop hrw)
  case reversedSection =>
    exact fun hr hc hp hop hge => raises_of_check (hp ▸ check_reversed_section_in_ready (hmatch hr hc) hop hge)
  case passes =>
    exact fun hr hc hseq hread hsection t =>
      step_fault_of_check_none hs (check_eq_none (hmatch hr hc) hseq hread hsection)

/-- Settles O8: the step is fault entry for the word on offer, and a state with a record has no step. -/
theorem faultEntryWritesOnlyTheRecord : Obligations.FaultEntryWritesOnlyTheRecord := by
  intro s t r hf h hr
  obtain ⟨rest, hp, rfl⟩ := eq_raise_of_step_faults hf h hr
  refine ⟨⟨rest, hp⟩, recordsOnly_takeRequest_raise s r.kind r.req, fun u hu => ?_⟩
  rw [step_of_fault_some hr] at hu
  cases hu

end Sys2Proof.Machine
end

section
/-! PROOFS. The statements about the encoding. -/

namespace Sys2Proof.Machine

/-! ## The decoder, row by row -/

theorem decode_of_match {req : Word} {row : OpcodeRow} (hrow : rowOfOp (opField req) = some row)
    (hm : req &&& row.mask = row.matchBits) : decode req = .ok (row.build req) := by
  simp [decode, hrow, hm]

/-- The decoder accepts a word exactly when the row of its opcode matches it. -/
theorem decode_ok_iff {req : Word} :
    (∃ i, decode req = .ok i) ↔ ∃ row, rowOfOp (opField req) = some row ∧ req &&& row.mask = row.matchBits := by
  constructor
  · rintro ⟨i, h⟩
    by_contra hno
    obtain ⟨reason, hr⟩ := decode_error_of_no_match fun row hrow hm => hno ⟨row, hrow, hm⟩
    simp [hr] at h
  · rintro ⟨row, hrow, hm⟩
    exact ⟨_, decode_of_match hrow hm⟩

/-- No row masks a bit of the opcode, so a word that a row matches has that row's opcode. -/
theorem opField_of_match {req : Word} {row : OpcodeRow} (hrow : row ∈ opcodeTable)
    (hm : req &&& row.mask = row.matchBits) : opField row.matchBits = opField req := by
  have full : ∀ row ∈ opcodeTable, opField row.mask = BitVec.allOnes 4 := by decide
  rw [← hm, opField, BitVec.extractLsb'_and, ← opField, ← opField, full row hrow, BitVec.and_allOnes]

theorem rowOfOp_matchBits : ∀ row ∈ opcodeTable, rowOfOp (opField row.matchBits) = some row := by
  simp only [opcodeTable, List.forall_mem_cons, List.not_mem_nil, false_imp_iff, implies_true, and_true]
  and_intros <;> rfl

/-- The decoder looks at one row only, and no other row can match. -/
theorem exists_match_iff {req : Word} :
    (∃ row ∈ opcodeTable, req &&& row.mask = row.matchBits) ↔
      ∃ row, rowOfOp (opField req) = some row ∧ req &&& row.mask = row.matchBits := by
  constructor
  · rintro ⟨row, hrow, hm⟩
    exact ⟨row, opField_of_match hrow hm ▸ rowOfOp_matchBits row hrow, hm⟩
  · rintro ⟨row, hrow, hm⟩
    exact ⟨row, List.mem_of_getElem? hrow, hm⟩

theorem countP_match_le_one (req : Word) :
    opcodeTable.countP (fun row => decide (req &&& row.mask = row.matchBits)) ≤ 1 := by
  have once : ∀ op, opcodeTable.countP (fun row => decide (opField row.matchBits = op)) ≤ 1 := by decide
  refine le_trans (List.countP_mono_left fun row hrow hm => ?_) (once (opField req))
  exact decide_eq_true (opField_of_match hrow (of_decide_eq_true hm))

theorem countP_match_eq_one_iff (req : Word) :
    opcodeTable.countP (fun row => decide (req &&& row.mask = row.matchBits)) = 1 ↔
      ∃ row ∈ opcodeTable, req &&& row.mask = row.matchBits := by
  have le := countP_match_le_one req
  have pos := List.countP_pos_iff (l := opcodeTable) (p := fun row => decide (req &&& row.mask = row.matchBits))
  simp only [decide_eq_true_eq] at pos
  rw [← pos]
  omega

/-! ## Decoding an encoding -/

/-- Each operand stands in its own field and the other bits are the row's, for all values of the operands. -/
theorem decode_encode (i : Instr) : decode (encode i) = .ok i := by
  cases i with
  | init w => cases w <;> rfl
  | transmit b => revert b; decide
  | sendCommand rs rw b => revert rs rw b; decide +kernel
  | setCursor r c => revert r c; decide
  | writeChar b => revert b; decide
  | clearChar r c => revert r c; decide
  | clearRow r => revert r; decide
  | clearSection r g e => revert r g e; decide +kernel
  | clearScreen | backspace | shiftCursorRight | shiftCursorLeft | enableCursor | disableCursor => rfl

theorem wellFormed_of_instr (i : Instr) : i.wellFormed = true := by
  cases i with
  | init w => exact Laws.OperandsFit.init w
  | transmit b => exact Laws.OperandsFit.transmit b
  | sendCommand rs rw b => exact Laws.OperandsFit.sendCommand rs rw b
  | setCursor r c => exact Laws.OperandsFit.setCursor r c
  | writeChar b => exact Laws.OperandsFit.writeChar b
  | clearChar r c => exact Laws.OperandsFit.clearChar r c
  | clearRow r => exact Laws.OperandsFit.clearRow r
  | clearSection r g e => exact Laws.OperandsFit.clearSection r g e
  | clearScreen | backspace | shiftCursorRight | shiftCursorLeft | enableCursor | disableCursor => rfl

/-! ## The obligations -/

/-- Settles O2: the operands have their fields' widths, and in every row each field reads its own operand back. -/
theorem decodeOfEncodeIsTheRequest : Obligations.DecodeOfEncodeIsTheRequest :=
  fun i => ⟨wellFormed_of_instr i, decode_encode i⟩

/-- Settles O3: the match bits are the word under the row's mask, and the operand fields cover the other bits. -/
theorem encodeOfDecodeIsTheWord : Obligations.EncodeOfDecodeIsTheWord :=
  fun _ _ => encode_of_decode

/-- Settles O4: a matching row has the word's opcode, and the opcodes of the table differ. -/
theorem noWordMatchesTwoRows : Obligations.NoWordMatchesTwoRows :=
  fun req => ⟨countP_match_le_one req,
    decode_ok_iff.trans (exists_match_iff.symm.trans (countP_match_eq_one_iff req).symm)⟩

/-- Settles O1: each word is the encoding of its request. -/
theorem wordsOfTheVectorsDecode : Obligations.WordsOfTheVectorsDecode :=
  ⟨decode_encode (.init .four), decode_encode (.init .eight), decode_encode (.transmit 0xA5),
    decode_encode (.sendCommand true false 0x41), decode_encode (.setCursor 1 3), decode_encode (.writeChar 0x48),
    decode_encode .clearScreen, decode_encode (.clearChar 1 15), decode_encode (.clearRow 1),
    decode_encode (.clearSection 0 3 7), decode_encode .backspace, decode_encode .shiftCursorRight,
    decode_encode .shiftCursorLeft, decode_encode .enableCursor, decode_encode .disableCursor⟩

end Sys2Proof.Machine
end

section
/-! PROOFS. The levels a history leaves on each line, and what its pulses look like. -/

namespace Sys2Proof.Machine

/-! ## The level of one line -/

theorem Levels.ext_get {a b : Levels} (h : ∀ l, a.get l = b.get l) : a = b := by
  obtain ⟨⟩ := a
  obtain ⟨⟩ := b
  congr 1
  exacts [h .rs, h .rw, h .e, h .d7, h .d6, h .d5, h .d4, h .d3, h .d2, h .d1, h .d0]

theorem Levels.get_put (lv : Levels) (l' l : Line) (v : Level) :
    (lv.put l' v).get l = if l' = l then v else lv.get l := by
  cases l' <;> cases l <;> rfl

@[simp] theorem Levels.get_put_same (lv : Levels) (l : Line) (v : Level) : (lv.put l v).get l = v := by
  rw [Levels.get_put, if_pos rfl]

theorem Levels.get_put_ne (lv : Levels) {l l' : Line} (v : Level) (h : l' ≠ l) : (lv.put l' v).get l = lv.get l := by
  rw [Levels.get_put, if_neg h]

/-- No event of the list sets or clears the line `l`. -/
def Spares (l : Line) (evs : List Event) : Prop := ∀ ev ∈ evs, ev ≠ .set l ∧ ev ≠ .clr l

theorem spares_append {l : Line} {a b : List Event} : Spares l (a ++ b) ↔ Spares l a ∧ Spares l b :=
  List.forall_mem_append

theorem spares_cons {l : Line} {ev : Event} {evs : List Event} :
    Spares l (ev :: evs) ↔ (ev ≠ .set l ∧ ev ≠ .clr l) ∧ Spares l evs :=
  List.forall_mem_cons

theorem get_applyEvent_of_ne (lv : Levels) {l : Line} {ev : Event} (h : ev ≠ .set l ∧ ev ≠ .clr l) :
    (applyEvent lv ev).get l = lv.get l := by
  cases ev with
  | wait => rfl
  | set l' => exact Levels.get_put_ne lv true fun hl => h.1 (congrArg _ hl)
  | clr l' => exact Levels.get_put_ne lv false fun hl => h.2 (congrArg _ hl)

theorem get_replay_of_spares (lv : Levels) {l : Line} {evs : List Event} (h : Spares l evs) :
    (replay lv evs).get l = lv.get l := by
  induction evs generalizing lv with
  | nil => rfl
  | cons ev evs ih =>
    obtain ⟨hev, hevs⟩ := spares_cons.mp h
    rw [replay_cons, ih _ hevs, get_applyEvent_of_ne lv hev]

/-- The last event of a line decides its level. -/
theorem get_replay_after (lv : Levels) {l : Line} (before : List Event) (ev : Event) {after : List Event}
    (h : Spares l after) :
    (replay lv (before ++ ev :: after)).get l = (applyEvent (replay lv before) ev).get l := by
  rw [replay_append, replay_cons, get_replay_of_spares _ h]

/-- Events that do not spare a line leave it a level that does not depend on the levels before them. -/
theorem spares_or_get_replay_eq (l : Line) (evs : List Event) :
    Spares l evs ∨ ∀ lv lv', (replay lv evs).get l = (replay lv' evs).get l := by
  induction evs with
  | nil => exact .inl (by simp [Spares])
  | cons ev evs ih =>
    obtain hevs | heq := ih
    · by_cases hev : ev ≠ .set l ∧ ev ≠ .clr l
      · exact .inl (spares_cons.mpr ⟨hev, hevs⟩)
      · refine .inr fun lv lv' => ?_
        rw [replay_cons, replay_cons, get_replay_of_spares _ hevs, get_replay_of_spares _ hevs]
        obtain rfl | rfl : ev = .set l ∨ ev = .clr l := by tauto
        · simp [applyEvent]
        · simp [applyEvent]
    · exact .inr fun lv lv' => heq _ _

/-- Events repeated at once change no level. -/
theorem replay_replay_self (lv : Levels) (evs : List Event) : replay (replay lv evs) evs = replay lv evs := by
  refine Levels.ext_get fun l => ?_
  obtain hs | heq := spares_or_get_replay_eq l evs
  · exact get_replay_of_spares _ hs
  · exact heq _ _

/-! ## The lines that the events of a procedure leave alone -/

theorem mem_driveEvents {l : Line} {v : Level} {ev : Event} (h : ev ∈ driveEvents l v) : ev = .clr l ∨ ev = .set l := by
  cases v <;> simp_all [driveEvents]

theorem spares_driveEvents {l l' : Line} (v : Level) (h : l' ≠ l) : Spares l (driveEvents l' v) := by
  intro ev hev
  obtain rfl | rfl := mem_driveEvents hev <;> simp [h]

theorem spares_linesEvents {l : Line} {ls : List (Line × Level)} (h : ∀ p ∈ ls, p.1 ≠ l) :
    Spares l (linesEvents ls) := by
  intro ev hev
  obtain ⟨p, hp, hev⟩ := List.mem_flatMap.mp hev
  exact spares_driveEvents p.2 (h p hp) ev hev

/-- The data lines that FOUR mode does not use (10_state.md R26). -/
def lowDataLines : List Line := [.d3, .d2, .d1, .d0]

/-- The events touch none of D3..D0. -/
def SparesLowLines (evs : List Event) : Prop := ∀ l ∈ lowDataLines, Spares l evs

theorem SparesLowLines.append {a b : List Event} (ha : SparesLowLines a) (hb : SparesLowLines b) :
    SparesLowLines (a ++ b) :=
  fun l hl => spares_append.mpr ⟨ha l hl, hb l hl⟩

theorem sparesLowLines_driveEvents {l : Line} (v : Level) (h : l ∉ lowDataLines) : SparesLowLines (driveEvents l v) :=
  fun _ hl => spares_driveEvents v fun he => h (he ▸ hl)

theorem sparesLowLines_nibbleLines (n : Nibble) : SparesLowLines (linesEvents (nibbleLines n)) := by
  refine fun l hl => spares_linesEvents fun p hp he => ?_
  have high : p.1 ∈ [Line.d7, .d6, .d5, .d4] := by
    rw [show [Line.d7, .d6, .d5, .d4] = (nibbleLines n).map Prod.fst from rfl]
    exact List.mem_map_of_mem hp
  subst he
  revert hl high
  cases p.1 <;> decide

theorem sparesLowLines_pulseEvents : SparesLowLines pulseEvents := by
  intro l hl
  fin_cases hl <;> simp [Spares, pulseEvents]

theorem sparesLowLines_byteEvents (b : Byte) : SparesLowLines (byteEvents .four b) :=
  (((sparesLowLines_nibbleLines _).append sparesLowLines_pulseEvents).append (sparesLowLines_nibbleLines _)).append
    sparesLowLines_pulseEvents

theorem sparesLowLines_commandEvents (rs rw : Level) (b : Byte) : SparesLowLines (commandEvents .four rs rw b) :=
  ((sparesLowLines_driveEvents rs (by decide)).append (sparesLowLines_driveEvents rw (by decide))).append
    (sparesLowLines_byteEvents b)

theorem sparesLowLines_spaceEvents (cfg : Config) (n : Nat) : SparesLowLines (spaceEvents cfg .four n) := by
  induction n with
  | zero => simp [SparesLowLines, Spares, spaceEvents]
  | succ n ih => rw [spaceEvents_succ]; exact (sparesLowLines_commandEvents _ _ _).append ih

theorem sparesLowLines_blankEvents (cfg : Config) (r : Row) (c : Column) (n : Nat) :
    SparesLowLines (blankEvents cfg .four r c n) :=
  ((sparesLowLines_commandEvents _ _ _).append (sparesLowLines_spaceEvents cfg n)).append
    (sparesLowLines_commandEvents _ _ _)

theorem sparesLowLines_initEvents (cfg : Config) : SparesLowLines (initEvents cfg .four) := by
  have raw : SparesLowLines (resetEvents ++ enable4Events) := by unfold SparesLowLines Spares; decide
  exact raw.append (sparesLowLines_commandEvents _ _ _)

/-! ## Whole pulses -/

/-- In a strobed history every `Set(E)` starts a whole pulse (40_bus_encoder.md R81). -/
theorem pulse_of_strobed {evs before rest : List Event} (hs : strobed evs = true) (h : evs = before ++ .set .e :: rest) :
    ∃ more, rest = .wait :: .clr .e :: .wait :: more := by
  fun_induction strobed evs generalizing before with
  | case1 => simp at h
  | case2 evs ih =>
    obtain _ | ⟨_, _ | ⟨_, _ | ⟨_, _ | ⟨_, before⟩⟩⟩⟩ := before
    case nil => exact ⟨evs, by simpa using h.symm⟩
    case cons.cons.cons.cons =>
      obtain ⟨-, -, -, -, h⟩ : _ ∧ _ ∧ _ ∧ _ ∧ evs = before ++ .set .e :: rest := by simpa using h
      exact ih hs h
    all_goals simp at h
  | case3 => simp at hs
  | case4 => simp at hs
  | case5 => simp at hs
  | case6 l evs _ hl ih =>
    cases before with
    | nil => simp_all
    | cons _ before => exact ih hs (List.cons.inj h).2
  | case7 l evs hl ih =>
    cases before with
    | nil => simp_all
    | cons _ before => exact ih hs (List.cons.inj h).2

/-- In a strobed history the wait alone stands between a `Set(E)` and the `Clr(E)` that ends its pulse. -/
theorem during_pulse_of_strobed {before during after : List Event}
    (hs : strobed (before ++ .set .e :: (during ++ .clr .e :: after)) = true) (hd : Event.clr .e ∉ during) :
    during = [.wait] := by
  obtain ⟨more, h⟩ := pulse_of_strobed hs rfl
  obtain _ | ⟨a, _ | ⟨b, during⟩⟩ := during <;> simp_all

/-! ## What init and the performed requests append -/

/-- Events of whole pulses that end with E low and, in FOUR mode, touch none of D3..D0. -/
structure Sends (w : BusWidth) (evs : List Event) : Prop where
  pulses : strobed evs = true
  strobeLow : ∀ lv, (replay lv evs).e = false
  lowLines : w = .four → SparesLowLines evs

theorem Levels.afterByte_e (lv : Levels) (w : BusWidth) (b : Byte) : (lv.afterByte w b).e = false := by
  cases w <;> rfl

theorem Levels.afterByte_rw (lv : Levels) (w : BusWidth) (b : Byte) : (lv.afterByte w b).rw = lv.rw := by
  cases w <;> rfl

theorem Levels.afterCommand_e (lv : Levels) (w : BusWidth) (rs : Level) (b : Byte) : (lv.afterCommand w rs b).e = false :=
  Levels.afterByte_e _ w b

theorem Levels.afterCommand_rw (lv : Levels) (w : BusWidth) (rs : Level) (b : Byte) :
    (lv.afterCommand w rs b).rw = false :=
  Levels.afterByte_rw _ w b

theorem sends_byteEvents (w : BusWidth) (b : Byte) : Sends w (byteEvents w b) where
  pulses := strobed_byteEvents w b
  strobeLow lv := by rw [replay_byteEvents]; exact Levels.afterByte_e lv w b
  lowLines := by rintro rfl; exact sparesLowLines_byteEvents b

theorem sends_commandEvents (w : BusWidth) (rs : Level) (b : Byte) : Sends w (commandEvents w rs false b) where
  pulses := strobed_commandEvents w rs false b
  strobeLow lv := by rw [replay_commandEvents]; exact Levels.afterCommand_e lv w rs b
  lowLines := by rintro rfl; exact sparesLowLines_commandEvents rs false b

theorem sends_blankEvents (cfg : Config) (w : BusWidth) (r : Row) (c : Column) (n : Nat) :
    Sends w (blankEvents cfg w r c n) where
  pulses := strobed_blankEvents cfg w r c n
  strobeLow lv := by rw [replay_blankEvents]; exact Levels.afterCommand_e lv w false _
  lowLines := by rintro rfl; exact sparesLowLines_blankEvents cfg r c n

theorem sends_initEvents (cfg : Config) (w : BusWidth) : Sends w (initEvents cfg w) where
  pulses := strobed_initEvents cfg w
  strobeLow lv := by rw [replay_initEvents]; exact Levels.afterCommand_e lv w false _
  lowLines := by rintro rfl; exact sparesLowLines_initEvents cfg

/-- `t` comes from `s` by appending events that `Sends` describes, and the levels follow them. -/
def EmitsBytes (w : BusWidth) (s t : State) : Prop := ∃ evs, t.H = s.H ++ evs ∧ t.lvl = replay s.lvl evs ∧ Sends w evs

theorem Performed.emitsBytes {w : BusWidth} {s t : State} (h : Performed w s t) : EmitsBytes w s t := by
  cases h with
  | byte b => exact ⟨_, rfl, rfl, sends_byteEvents w b⟩
  | command rs b => exact ⟨_, rfl, rfl, sends_commandEvents w rs b⟩
  | cursor r c => exact ⟨_, rfl, rfl, sends_commandEvents w false _⟩
  | blank r c n => exact ⟨_, rfl, rfl, sends_blankEvents s.cfg w r c n⟩

theorem initialise_emitsBytes (w : BusWidth) (s : State) : EmitsBytes w s (initialise w s) :=
  ⟨initEvents s.cfg w, by simp [initialise_eq], by simp [initialise_eq], sends_initEvents s.cfg w⟩

/-! ## What no request touches -/

/-- The parameters and the request port are as they were. -/
structure KeepsPort (s t : State) : Prop where
  cfg : t.cfg = s.cfg
  pending : t.pending = s.pending
  position : t.position = s.position

theorem Performed.keepsPort {w : BusWidth} {s t : State} (h : Performed w s t) : KeepsPort s t := by
  cases h <;> exact ⟨rfl, rfl, rfl⟩

theorem initialise_keepsPort (w : BusWidth) (s : State) : KeepsPort s (initialise w s) := by
  rw [initialise_eq]; exact ⟨rfl, rfl, rfl⟩

theorem Executed.keepsPort {req : Word} {s t : State} (h : Executed req s t) : KeepsPort s t := by
  cases h with
  | raised => exact ⟨rfl, rfl, rfl⟩
  | initialised w => exact initialise_keepsPort w s
  | nothing => exact ⟨rfl, rfl, rfl⟩
  | performed w _ _ hq => exact hq.keepsPort

/-! ## The invariants -/

theorem inv_powerOn {cfg : Config} (h : cfg.wellFormed = true) : Inv (State.powerOn cfg) where
  legalConfig := h
  readyHolds := by simp
  uninitHolds := by simp
  strobeLow := by simp
  levels := rfl
  writeOnly := by simp
  lowLines _ := ⟨rfl, rfl, rfl, rfl⟩
  pulses := rfl

/-- The invariants do not speak of the request port. -/
theorem Inv.takeRequest {s : State} (h : Inv s) : Inv s.takeRequest :=
  ⟨h.legalConfig, h.readyHolds, h.uninitHolds, h.strobeLow, h.levels, h.writeOnly, h.lowLines, h.pulses⟩

/-- Nor do they speak of the record. -/
theorem Inv.raise {s : State} (h : Inv s) (kind : FaultKind) (req : Word) : Inv (s.raise kind req) :=
  ⟨h.legalConfig, h.readyHolds, h.uninitHolds, h.strobeLow, h.levels, h.writeOnly, h.lowLines, h.pulses⟩

theorem lowLevels_of_spares (lv : Levels) {evs : List Event} (h : SparesLowLines evs) :
    (replay lv evs).d3 = lv.d3 ∧ (replay lv evs).d2 = lv.d2 ∧
      (replay lv evs).d1 = lv.d1 ∧ (replay lv evs).d0 = lv.d0 :=
  ⟨get_replay_of_spares lv (h .d3 (by decide)), get_replay_of_spares lv (h .d2 (by decide)),
    get_replay_of_spares lv (h .d1 (by decide)), get_replay_of_spares lv (h .d0 (by decide))⟩

/-- A READY state with the width `w` that sent bytes from a state that was not in the other width keeps the invariants. -/
theorem Inv.of_emitsBytes {w : BusWidth} {s t : State} (hs : Inv s) (he : EmitsBytes w s t) (hcfg : t.cfg = s.cfg)
    (hp : t.phase = .ready) (hw : t.busWidth = some w) (hr : t.cursorRow.isSome) (hc : t.cursorColumn.isSome)
    (hrw : t.lvl.rw = false) (hfour : w = .four → s.busWidth ≠ some .eight) : Inv t := by
  obtain ⟨evs, hH, hlvl, hsends⟩ := he
  constructor
  case legalConfig => exact hcfg ▸ hs.legalConfig
  case readyHolds => exact fun _ => ⟨by simp [hw], hr, hc⟩
  case uninitHolds => simp [hp]
  case strobeLow => exact fun _ => hlvl ▸ hsends.strobeLow s.lvl
  case levels => rw [hlvl, hcfg, hH, replay_append, ← hs.levels]
  case writeOnly => exact fun _ => hrw
  case lowLines =>
    intro hne
    have hw4 : w = .four := by cases w <;> simp_all
    obtain ⟨h3, h2, h1, h0⟩ := lowLevels_of_spares s.lvl (hsends.lowLines hw4)
    rw [hlvl, hcfg, h3, h2, h1, h0]
    exact hs.lowLines (hfour hw4)
  case pulses => exact hH ▸ strobed_append hs.pulses hsends.pulses

theorem Performed.rw_low {w : BusWidth} {s t : State} (h : Performed w s t) (hs : s.lvl.rw = false) :
    t.lvl.rw = false := by
  cases h with
  | byte b => rw [State.emitAll_lvl, replay_byteEvents, Levels.afterByte_rw, hs]
  | command rs b => rw [State.emitAll_lvl, replay_commandEvents, Levels.afterCommand_rw]
  | cursor r c => rw [State.emitAll_lvl, setCursorEvents, replay_commandEvents, Levels.afterCommand_rw]
  | blank r c n => rw [State.emitAll_lvl, replay_blankEvents, Levels.afterCommand_rw]

theorem Performed.cursor_isSome {w : BusWidth} {s t : State} (h : Performed w s t) (hr : s.cursorRow.isSome)
    (hc : s.cursorColumn.isSome) : t.cursorRow.isSome ∧ t.cursorColumn.isSome := by
  cases h <;> simp [hr, hc]

theorem Inv.performed {w : BusWidth} {s t : State} (hs : Inv s) (hp : s.phase = .ready) (hw : s.busWidth = some w)
    (h : Performed w s t) : Inv t := by
  obtain ⟨-, hr, hc⟩ := hs.readyHolds hp
  obtain ⟨hr, hc⟩ := h.cursor_isSome hr hc
  obtain ⟨hp', hw'⟩ := h.phase_busWidth
  exact hs.of_emitsBytes h.emitsBytes h.keepsPort.cfg (hp'.trans hp) (hw'.trans hw) hr hc
    (h.rw_low (hs.writeOnly hp)) (by rintro rfl; simp [hw])

theorem Inv.initialise {s : State} (hs : Inv s) (w : BusWidth) (hp : s.phase = .uninit) : Inv (initialise w s) := by
  obtain ⟨-, hw, -, -⟩ := hs.uninitHolds hp
  refine hs.of_emitsBytes (initialise_emitsBytes w s) (initialise_keepsPort w s).cfg (initialise_phase w s)
    (initialise_busWidth w s) ?_ ?_ ?_ (by simp [hw])
  · simp [initialise_eq]
  · simp [initialise_eq]
  · rw [initialise_eq, State.emitAll_lvl, replay_initEvents, Levels.afterCommand_rw]

theorem Inv.executed {req : Word} {s t : State} (hs : Inv s) (h : Executed req s t) : Inv t := by
  cases h with
  | raised k => exact hs.raise k req
  | initialised w hp => exact hs.initialise w hp
  | nothing => exact hs
  | performed w hp hw hq => exact hs.performed hp hw hq

theorem Inv.stepped {s t : State} (hs : Inv s) (h : step s = .next t) : Inv t := by
  cases step_stepped h with
  | idled => exact hs
  | rejected req => exact hs.takeRequest.raise .reservedRequest req
  | executed _ _ _ _ _ _ ht => exact hs.takeRequest.executed (exec_executed ht)

/-! ## Runs -/

theorem run_succ_of_next {s t : State} (h : step s = .next t) (n : Nat) :
    Sys2Proof.core.run (n + 1) s = Sys2Proof.core.run n t := by
  have h : Sys2Proof.core.step s = .next t := h
  simp only [Host.Core.run, h]

theorem run_succ_of_fault {s : State} {r : Fault} (h : step s = .fault r) (n : Nat) :
    Sys2Proof.core.run (n + 1) s = .fault r := by
  have h : Sys2Proof.core.step s = .fault r := h
  simp only [Host.Core.run, h]

/-! ## Steps -/

theorem takeRequest_of_pending {s : State} {req : Word} {rest : List Word} (h : s.pending = req :: rest) :
    s.takeRequest = { s with pending := rest, position := s.position + 1 } := by
  simp [State.takeRequest, h]

/-- A step appends nothing, or it sends bytes in the width that the block then has. -/
theorem step_unchanged_or_emitsBytes {s t : State} (h : step s = .next t) :
    (t.H = s.H ∧ t.lvl = s.lvl) ∨ ∃ w, t.busWidth = some w ∧ EmitsBytes w s t := by
  cases step_stepped h with
  | idled => exact .inl ⟨rfl, rfl⟩
  | rejected => exact .inl ⟨rfl, rfl⟩
  | executed _ _ _ _ _ _ ht =>
    cases exec_executed ht with
    | raised => exact .inl ⟨rfl, rfl⟩
    | initialised w => exact .inr ⟨w, initialise_busWidth w _, initialise_emitsBytes w _⟩
    | nothing => exact .inl ⟨rfl, rfl⟩
    | performed w _ hw hq => exact .inr ⟨w, hq.phase_busWidth.2.trans hw, hq.emitsBytes⟩

/-! ## The obligations -/

/-- Settles O14: a step changes nothing that the invariants speak of, or it sends whole bytes. -/
theorem stepKeepsTheInvariants : Obligations.StepKeepsTheInvariants :=
  fun _ _ hs h => hs.stepped h

/-- Settles O13: the history is empty and the elements that init writes hold no value. -/
theorem powerOnMeetsTheInvariants : Obligations.PowerOnMeetsTheInvariants :=
  fun _ h => inv_powerOn h

/-- Settles O15: by R35 (a) the elements that a request reads hold values. -/
theorem blockStepsUnlessHalted : Obligations.BlockStepsUnlessHalted :=
  fun _ hs hf => step_answers hs.holdsValuesWhenReady hf

/-- Settles O9: the halt comes before the fetch, so no run gets past it. -/
theorem haltedBlockHasNoStep : Obligations.HaltedBlockHasNoStep := by
  intro s r hf
  have halted := step_of_fault_some hf
  exact ⟨halted, fun n t hrun => nomatch (run_succ_of_fault halted n).symm.trans hrun⟩

/-- Settles O5: the word on offer is taken before it is performed. -/
theorem stepPerformsTheDecodedRequest : Obligations.StepPerformsTheDecodedRequest := by
  intro s req rest i hs hd
  rw [step_of_decode_ok hs hd, takeRequest_of_pending hs.port]

/-- Settles O11: of all that a request can do, nothing touches the parameters or the port. -/
theorem requestsLeaveParametersAndPortAlone : Obligations.RequestsLeaveParametersAndPortAlone := by
  intro i s t h
  have kept := (exec_executed h).keepsPort
  exact ⟨kept.cfg, kept.pending, kept.position⟩

/-- Settles O10: the step takes the first word, and the request leaves the port alone. -/
theorem stepTakesOneWord : Obligations.StepTakesOneWord := by
  intro s t req rest hp h
  cases step_stepped h with
  | idled _ hnil => simp [hp] at hnil
  | rejected => simp [hp]
  | executed _ _ _ _ _ _ ht =>
    have kept := (exec_executed ht).keepsPort
    exact ⟨by simp [kept.pending, hp], kept.position⟩

/-- Settles O21: the levels are the replay of the step's events, and the last event of a line decides its level. -/
theorem lineKeepsItsLevelUntilItsNextEvent : Obligations.LineKeepsItsLevelUntilItsNextEvent := by
  intro s t h
  obtain ⟨evs, hH, hlvl⟩ := step_emits h
  refine ⟨evs, hH, fun l =>
    ⟨fun hspares => ?_, fun before after hevs hspares => ?_, fun before after hevs hspares => ?_⟩⟩
  · rw [hlvl, get_replay_of_spares _ hspares]
  · rw [hlvl, hevs, get_replay_after _ _ _ hspares, applyEvent, Levels.get_put_same]
  · rw [hlvl, hevs, get_replay_after _ _ _ hspares, applyEvent, Levels.get_put_same]

/-- Settles O22: the history after the step is strobed, as the invariants say. -/
theorem levelsHoldStillDuringAPulse : Obligations.LevelsHoldStillDuringAPulse := by
  intro s t hs h before during after hH hd
  exact during_pulse_of_strobed (hH ▸ (hs.stepped h).pulses) hd

/-- Settles O23: in FOUR mode only D7..D4 are driven. -/
theorem fourModeLeavesLowDataLinesAlone : Obligations.FourModeLeavesLowDataLinesAlone := by
  intro s t h ht
  obtain ⟨hH, hlvl⟩ | ⟨w, hw, evs, hH, hlvl, hsends⟩ := step_unchanged_or_emitsBytes h
  · exact ⟨⟨[], by simp [hH], by simp⟩, by simp [hlvl]⟩
  · obtain rfl : w = .four := by simpa [hw] using ht
    have hlow := hsends.lowLines rfl
    refine ⟨⟨evs, hH, fun l hl => ⟨fun hset => ?_, fun hclr => ?_⟩⟩, hlvl ▸ lowLevels_of_spares s.lvl hlow⟩
    · exact (hlow l hl _ hset).1 rfl
    · exact (hlow l hl _ hclr).2 rfl

end Sys2Proof.Machine
end

section
/-! PROOFS. What each request does, as one equation: its check, the width, then its cell and its events. -/

namespace Sys2Proof.Machine

/-! ## The events and the cell of a request -/

/-- The events of bytes sent one after the other. -/
def itemEvents (w : BusWidth) (items : List BusItem) : List Event :=
  items.flatMap fun it => commandEvents w it.rs it.rw it.byte

@[simp] theorem itemEvents_nil (w : BusWidth) : itemEvents w [] = [] := rfl

@[simp] theorem itemEvents_cons (w : BusWidth) (it : BusItem) (items : List BusItem) :
    itemEvents w (it :: items) = commandEvents w it.rs it.rw it.byte ++ itemEvents w items := rfl

theorem itemEvents_append (w : BusWidth) (a b : List BusItem) :
    itemEvents w (a ++ b) = itemEvents w a ++ itemEvents w b := List.flatMap_append

theorem itemEvents_singleton (w : BusWidth) (it : BusItem) :
    itemEvents w [it] = commandEvents w it.rs it.rw it.byte := List.append_nil _

theorem itemEvents_spaces (cfg : Config) (w : BusWidth) (n : Nat) :
    itemEvents w (List.replicate n (dataItem cfg.space)) = spaceEvents cfg w n := by
  induction n with
  | zero => rfl
  | succ n ih => rw [List.replicate_succ, itemEvents_cons, ih, spaceEvents_succ]; rfl

theorem itemEvents_blankItems (cfg : Config) (w : BusWidth) (r : Row) (c : Column) (n : Nat) :
    itemEvents w (blankItems cfg r c n) = blankEvents cfg w r c n := by
  rw [blankItems, itemEvents_cons, itemEvents_append, itemEvents_spaces, itemEvents_singleton, blankEvents,
    List.append_assoc]
  rfl

/-- The events of a request performed in `s` with the bus width `w`: transmit leaves RS and RW alone, init has its own
width and its raw nibbles, and every other request sends its bytes. -/
def requestEvents (s : State) (w : BusWidth) : Instr → List Event
  | .init width => initEvents s.cfg width
  | .transmit b => byteEvents w b
  | i => itemEvents w (itemsOf s i)

/-- The cell that a request moves the cursor cache to, if it names one. (Backspace names none: it moves the cache from
where it is.) -/
def cellOf : Instr → Option (Row × Column)
  | .setCursor r c => some (r, c)
  | .clearChar r c => some (r, c)
  | .clearRow r => some (r, 0)
  | .clearSection r g _ => some (r, g)
  | _ => none

/-- The cache moved to a cell, or left alone. -/
def State.moveCursor (s : State) : Option (Row × Column) → State
  | none => s
  | some (r, c) => s.setCursorCache r c

/-- The state after a request that passes its check, for all requests but init and backspace. -/
def State.perform (s : State) (w : BusWidth) (i : Instr) : State :=
  (s.moveCursor (cellOf i)).emitAll (requestEvents s w i)

@[simp] theorem State.moveCursor_phase (s : State) (cell : Option (Row × Column)) :
    (s.moveCursor cell).phase = s.phase := by cases cell <;> rfl
@[simp] theorem State.moveCursor_fault (s : State) (cell : Option (Row × Column)) :
    (s.moveCursor cell).fault = s.fault := by cases cell <;> rfl
@[simp] theorem State.moveCursor_busWidth (s : State) (cell : Option (Row × Column)) :
    (s.moveCursor cell).busWidth = s.busWidth := by cases cell <;> rfl
@[simp] theorem State.moveCursor_lvl (s : State) (cell : Option (Row × Column)) :
    (s.moveCursor cell).lvl = s.lvl := by cases cell <;> rfl
@[simp] theorem State.moveCursor_H (s : State) (cell : Option (Row × Column)) :
    (s.moveCursor cell).H = s.H := by cases cell <;> rfl
@[simp] theorem State.moveCursor_cfg (s : State) (cell : Option (Row × Column)) :
    (s.moveCursor cell).cfg = s.cfg := by cases cell <;> rfl

@[simp] theorem State.perform_phase (s : State) (w : BusWidth) (i : Instr) : (s.perform w i).phase = s.phase := by
  simp [State.perform]
@[simp] theorem State.perform_fault (s : State) (w : BusWidth) (i : Instr) : (s.perform w i).fault = s.fault := by
  simp [State.perform]
@[simp] theorem State.perform_busWidth (s : State) (w : BusWidth) (i : Instr) :
    (s.perform w i).busWidth = s.busWidth := by simp [State.perform]
@[simp] theorem State.perform_cfg (s : State) (w : BusWidth) (i : Instr) : (s.perform w i).cfg = s.cfg := by
  simp [State.perform]
@[simp] theorem State.perform_H (s : State) (w : BusWidth) (i : Instr) :
    (s.perform w i).H = s.H ++ requestEvents s w i := by simp [State.perform]
@[simp] theorem State.perform_lvl (s : State) (w : BusWidth) (i : Instr) :
    (s.perform w i).lvl = replay s.lvl (requestEvents s w i) := by simp [State.perform]

/-! ## The equation of every request but init and backspace -/

theorem execSendCommand_eq (rs rw : Level) (b : Byte) (s : State) :
    execSendCommand rs rw b s =
      checked (encode (.sendCommand rs rw b)) s fun s =>
        withWidth s fun w => .next (s.perform w (.sendCommand rs rw b)) := by
  unfold execSendCommand
  cases hk : check s.phase (encode (.sendCommand rs rw b)) with
  | some k => rw [checked_of_some hk, checked_of_some hk]
  | none =>
    obtain ⟨-, rfl⟩ := ready_of_sendCommand hk
    simp only [State.perform, cellOf, State.moveCursor, requestEvents, itemsOf, itemEvents_singleton, sendCommand_eq]

theorem exec_eq_checked {i : Instr} (hb : i ≠ .backspace) (hi : ∀ w, i ≠ .init w) (s : State) :
    exec i s = checked (encode i) s fun s => withWidth s fun w => .next (s.perform w i) := by
  cases i with
  | init w => exact absurd rfl (hi w)
  | backspace => exact absurd rfl hb
  | sendCommand rs rw b => exact execSendCommand_eq rs rw b s
  | _ =>
    simp only [exec, execTransmit, execSetCursor, execWriteChar, execClearScreen, execClearChar, execClearRow,
      execClearSection, execShiftCursorRight, execShiftCursorLeft, execEnableCursor, execDisableCursor, State.perform,
      cellOf, State.moveCursor, requestEvents, itemsOf, itemEvents_singleton, itemEvents_blankItems, instructionItem,
      dataItem, transmit_eq, setCursor_eq, setCursorEvents, writeChar_eq, clearScreen_eq, sendCommand_eq, blankFrom_eq]

theorem exec_of_passed {i : Instr} {s : State} {w : BusWidth} (hb : i ≠ .backspace) (hi : ∀ w, i ≠ .init w)
    (hk : check s.phase (encode i) = none) (hw : s.busWidth = some w) : exec i s = .next (s.perform w i) := by
  rw [exec_eq_checked hb hi, checked_of_none hk, withWidth_of_some hw]

theorem exec_next_performs {i : Instr} {s t : State} (hb : i ≠ .backspace) (hi : ∀ w, i ≠ .init w)
    (hk : check s.phase (encode i) = none) (h : exec i s = .next t) :
    ∃ w, s.busWidth = some w ∧ t = s.perform w i := by
  rw [exec_eq_checked hb hi, checked_of_none hk] at h
  obtain ⟨w, hw, h⟩ := withWidth_next h
  cases h
  exact ⟨w, hw, rfl⟩

/-- A request that its check stops is recorded, so one that leaves no record has passed. -/
theorem check_none_of_fault_none {i : Instr} {s t : State} (h : exec i s = .next t) (ht : t.fault = none) :
    check s.phase (encode i) = none := by
  cases hk : check s.phase (encode i) with
  | none => rfl
  | some k =>
    rw [exec_of_check_some hk] at h
    cases h
    simp at ht

/-! ## init and backspace -/

theorem uninit_of_init_passed {w : BusWidth} {s : State} (hk : check s.phase (encode (.init w)) = none) :
    s.phase = .uninit := by
  rw [check_init] at hk
  cases hp : s.phase <;> simp_all

/-- Backspace blanks the cell to the left of (r, c), or does nothing at column 0. -/
def State.eraseLeft (s : State) (w : BusWidth) (r : Row) (c : Column) : State :=
  if c = 0 then s else (s.setCursorCache r (c - 1)).emitAll (blankEvents s.cfg w r (c - 1) 1)

theorem exec_backspace_of_passed {s : State} {w : BusWidth} {r : Row} {c : Column}
    (hk : check s.phase (encode .backspace) = none) (hw : s.busWidth = some w) (hr : s.cursorRow = some r)
    (hc : s.cursorColumn = some c) : exec .backspace s = .next (s.eraseLeft w r c) := by
  simp only [exec, execBackspace]
  rw [checked_of_none hk, withCursor_of_some hr hc, withWidth_of_some hw, blankFrom_eq, State.eraseLeft]
  split <;> rfl

/-- At column 0 backspace does not even read the width. -/
theorem exec_backspace_at_zero {s : State} {r : Row} (hk : check s.phase (encode .backspace) = none)
    (hr : s.cursorRow = some r) (hc : s.cursorColumn = some 0) : exec .backspace s = .next s := by
  simp only [exec, execBackspace]
  rw [checked_of_none hk, withCursor_of_some hr hc, if_pos rfl]

theorem exec_backspace_next {s t : State} (hk : check s.phase (encode .backspace) = none)
    (h : exec .backspace s = .next t) :
    ∃ r c, s.cursorRow = some r ∧ s.cursorColumn = some c ∧
      ((c = 0 ∧ t = s) ∨ ∃ w, s.busWidth = some w ∧ t = s.eraseLeft w r c) := by
  simp only [exec, execBackspace] at h
  rw [checked_of_none hk] at h
  obtain ⟨r, c, hr, hc, h⟩ := withCursor_next h
  refine ⟨r, c, hr, hc, ?_⟩
  split at h
  · rename_i h0
    cases h
    exact .inl ⟨h0, rfl⟩
  · rename_i h0
    obtain ⟨w, hw, h⟩ := withWidth_next h
    cases h
    exact .inr ⟨w, hw, by rw [State.eraseLeft, if_neg h0, blankFrom_eq]⟩

theorem requestEvents_backspace {s : State} {w : BusWidth} {r : Row} {c : Column} (hr : s.cursorRow = some r)
    (hc : s.cursorColumn = some c) :
    requestEvents s w .backspace = if c = 0 then [] else blankEvents s.cfg w r (c - 1) 1 := by
  simp only [requestEvents, itemsOf, hr, hc]
  split
  · rfl
  · exact itemEvents_blankItems ..

/-- A request that passes its check in READY appends exactly its events. -/
theorem newEvents_of_passed {i : Instr} {s t : State} {w : BusWidth} (hs : ReadyWith s w)
    (hk : check s.phase (encode i) = none) (h : exec i s = .next t) : newEvents s.H t.H = requestEvents s w i := by
  by_cases hi : ∃ width, i = .init width
  · obtain ⟨width, rfl⟩ := hi
    cases (uninit_of_init_passed hk).symm.trans hs.ready
  by_cases hb : i = .backspace
  · subst hb
    obtain ⟨r, c, hr, hc, -⟩ := exec_backspace_next hk h
    rw [exec_backspace_of_passed hk hs.width hr hc] at h
    cases h
    rw [requestEvents_backspace hr hc, State.eraseLeft]
    split
    · simp [newEvents]
    · exact newEvents_append ..
  · rw [exec_of_passed hb (not_exists.mp hi) hk hs.width] at h
    cases h
    rw [State.perform_H, newEvents_append]

theorem newEvents_initialise (w : BusWidth) (s : State) : newEvents s.H (initialise w s).H = initEvents s.cfg w := by
  rw [initialise_eq]; exact newEvents_append ..

/-- A request that its check stops appends nothing. -/
theorem newEvents_of_check_some {i : Instr} {s t : State} {k : FaultKind} (hk : check s.phase (encode i) = some k)
    (h : exec i s = .next t) : newEvents s.H t.H = [] := by
  rw [exec_of_check_some hk] at h
  cases h
  simp [newEvents]

/-! ## The elements left after events, written out -/

theorem emitAll_commandEvents (s : State) (w : BusWidth) (rs : Level) (b : Byte) :
    s.emitAll (commandEvents w rs false b) =
      { s with H := s.H ++ commandEvents w rs false b, lvl := s.lvl.afterCommand w rs b } := by
  rw [State.emitAll, replay_commandEvents]

theorem emitAll_blankEvents (s : State) (w : BusWidth) (r : Row) (c : Column) (n : Nat) :
    (s.setCursorCache r c).emitAll (blankEvents s.cfg w r c n) =
      { s with
        cursorRow := some r
        cursorColumn := some c
        H := s.H ++ (commandEvents w false false (setAddressByte r c) ++
          (List.replicate n (commandEvents w true false s.cfg.space)).flatten ++
          commandEvents w false false (setAddressByte r c))
        lvl := s.lvl.afterCommand w false (setAddressByte r c) } := by
  rw [State.emitAll, replay_blankEvents]
  rfl

/-- A request that sends one byte and names no cell. -/
theorem exec_command_of_ready {i : Instr} {s : State} {w : BusWidth} {rs : Level} {b : Byte} (hs : ReadyWith s w)
    (hb : i ≠ .backspace) (hi : ∀ w, i ≠ .init w) (hk : check .ready (encode i) = none)
    (he : requestEvents s w i = commandEvents w rs false b) (hcell : cellOf i = none) :
    exec i s = .next { s with H := s.H ++ commandEvents w rs false b, lvl := s.lvl.afterCommand w rs b } := by
  rw [exec_of_passed hb hi (hs.ready ▸ hk) hs.width, State.perform, he, hcell, State.moveCursor, emitAll_commandEvents]

/-- A request that blanks `n` cells from the cell it names. -/
theorem exec_blank_of_ready {i : Instr} {s : State} {w : BusWidth} {r : Row} {c : Column} {n : Nat} (hs : ReadyWith s w)
    (hb : i ≠ .backspace) (hi : ∀ w, i ≠ .init w) (hk : check .ready (encode i) = none)
    (he : requestEvents s w i = blankEvents s.cfg w r c n) (hcell : cellOf i = some (r, c)) :
    exec i s = .next { s with
      cursorRow := some r
      cursorColumn := some c
      H := s.H ++ (commandEvents w false false (setAddressByte r c) ++
        (List.replicate n (commandEvents w true false s.cfg.space)).flatten ++
        commandEvents w false false (setAddressByte r c))
      lvl := s.lvl.afterCommand w false (setAddressByte r c) } := by
  rw [exec_of_passed hb hi (hs.ready ▸ hk) hs.width, State.perform, he, hcell, State.moveCursor, emitAll_blankEvents]

end Sys2Proof.Machine
end

section
/-! PROOFS. The results of the requests, what they read, and their equivalences. -/

namespace Sys2Proof.Machine

/-! ## Which elements a request reads -/

/-- Of the state, the events of a request but backspace depend on the parameters alone. -/
theorem requestEvents_congr {i : Instr} {s s' : State} (hb : i ≠ .backspace) (hcfg : s'.cfg = s.cfg) (w : BusWidth) :
    requestEvents s' w i = requestEvents s w i := by
  cases i <;> simp_all [requestEvents, itemsOf]

/-- A request that names a cell leaves nothing of the cache before it. -/
theorem perform_overwrites_cache {i : Instr} {cell : Row × Column} (hb : i ≠ .backspace) (hcell : cellOf i = some cell)
    (s : State) (w : BusWidth) (row : Option Row) (column : Option Column) :
    ({ s with cursorRow := row, cursorColumn := column } : State).perform w i = s.perform w i := by
  have events := requestEvents_congr (s := s) (s' := { s with cursorRow := row, cursorColumn := column }) hb rfl w
  rw [State.perform, events, hcell, State.perform, hcell]
  rfl

/-- A request that names no cell carries the cache through. -/
theorem perform_carries_cache {i : Instr} (hb : i ≠ .backspace) (hcell : cellOf i = none) (s : State) (w : BusWidth)
    (row : Option Row) (column : Option Column) :
    ({ s with cursorRow := row, cursorColumn := column } : State).perform w i =
      { s.perform w i with cursorRow := row, cursorColumn := column } := by
  have events := requestEvents_congr (s := s) (s' := { s with cursorRow := row, cursorColumn := column }) hb rfl w
  rw [State.perform, events, hcell, State.perform, hcell]
  rfl

/-- The state with another settle time. -/
def State.withSettle (s : State) (settle : Nat) : State := { s with cfg := { s.cfg with tSettle := settle } }

theorem initEvents_settle (cfg : Config) (w : BusWidth) (settle : Nat) :
    initEvents { cfg with tSettle := settle } w = initEvents cfg w := by
  cases w <;> simp only [initEvents]

theorem blankEvents_settle (cfg : Config) (w : BusWidth) (r : Row) (c : Column) (n settle : Nat) :
    blankEvents { cfg with tSettle := settle } w r c n = blankEvents cfg w r c n := by
  simp only [blankEvents, spaceEvents]

theorem requestEvents_withSettle (s : State) (w : BusWidth) (i : Instr) (settle : Nat) :
    requestEvents (s.withSettle settle) w i = requestEvents s w i := by
  cases i with
  | init width => exact initEvents_settle s.cfg width settle
  | _ => simp only [requestEvents, itemsOf, blankItems, State.withSettle]

theorem initialise_withSettle (w : BusWidth) (s : State) (settle : Nat) :
    initialise w (s.withSettle settle) = (initialise w s).withSettle settle := by
  rw [initialise_eq, initialise_eq, State.withSettle, initEvents_settle]
  rfl

theorem perform_withSettle (s : State) (w : BusWidth) (i : Instr) (settle : Nat) :
    (s.withSettle settle).perform w i = (s.perform w i).withSettle settle := by
  rw [State.perform, requestEvents_withSettle, State.perform]
  cases cellOf i <;> rfl

theorem eraseLeft_withSettle (s : State) (w : BusWidth) (r : Row) (c : Column) (settle : Nat) :
    (s.withSettle settle).eraseLeft w r c = (s.eraseLeft w r c).withSettle settle := by
  unfold State.eraseLeft
  split
  · rfl
  · rw [State.withSettle, blankEvents_settle]
    rfl

theorem exec_withSettle {i : Instr} {s t : State} (h : exec i s = .next t) (settle : Nat) :
    exec i (s.withSettle settle) = .next (t.withSettle settle) := by
  cases hk : check s.phase (encode i) with
  | some k =>
    rw [exec_of_check_some hk] at h
    cases h
    exact exec_of_check_some (s := s.withSettle settle) hk
  | none =>
    have hk' : check (s.withSettle settle).phase (encode i) = none := hk
    by_cases hi : ∃ w, i = .init w
    · obtain ⟨w, rfl⟩ := hi
      have hp := uninit_of_init_passed hk
      rw [exec_init_of_uninit w hp] at h
      cases h
      rw [exec_init_of_uninit (s := s.withSettle settle) w hp, initialise_withSettle]
    by_cases hb : i = .backspace
    · subst hb
      obtain ⟨r, c, hr, hc, ⟨rfl, rfl⟩ | ⟨w, hw, rfl⟩⟩ := exec_backspace_next hk h
      · exact exec_backspace_at_zero hk' hr hc
      · rw [exec_backspace_of_passed hk' hw hr hc, eraseLeft_withSettle]
    · have hi : ∀ w, i ≠ .init w := not_exists.mp hi
      obtain ⟨w, hw, rfl⟩ := exec_next_performs hb hi hk h
      rw [exec_of_passed hb hi hk' hw, perform_withSettle]

/-! ## The obligations: what requests keep and read -/

/-- Settles O18: these requests name no cell. -/
theorem cursorCacheIsKept : Obligations.CursorCacheIsKept := by
  intro i s t hi h
  obtain ⟨hb, hinit, hcell⟩ : i ≠ .backspace ∧ (∀ w, i ≠ .init w) ∧ cellOf i = none := by
    obtain ⟨b, rfl⟩ | ⟨rs, rw, b, rfl⟩ | ⟨b, rfl⟩ | rfl | rfl | rfl | rfl | rfl := hi <;> simp [cellOf]
  cases hk : check s.phase (encode i) with
  | some k =>
    rw [exec_of_check_some hk] at h
    cases h
    exact ⟨rfl, rfl⟩
  | none =>
    obtain ⟨w, -, rfl⟩ := exec_next_performs hb hinit hk h
    rw [State.perform, hcell]
    exact ⟨rfl, rfl⟩

/-- Settles O19: a request that names a cell overwrites the cache, as init does; any other carries it through. -/
theorem onlyBackspaceReadsTheCursorCache : Obligations.OnlyBackspaceReadsTheCursorCache := by
  intro i s t hb h
  cases hk : check s.phase (encode i) with
  | some k =>
    rw [exec_of_check_some hk] at h
    cases h
    exact .inr fun row column => exec_of_check_some (s := { s with cursorRow := row, cursorColumn := column }) hk
  | none =>
    by_cases hi : ∃ w, i = .init w
    · obtain ⟨w, rfl⟩ := hi
      have hp := uninit_of_init_passed hk
      rw [exec_init_of_uninit w hp] at h
      cases h
      refine .inl fun row column => ?_
      rw [exec_init_of_uninit (s := { s with cursorRow := row, cursorColumn := column }) w hp, initialise_eq, initialise_eq]
      rfl
    · have hi : ∀ w, i ≠ .init w := not_exists.mp hi
      obtain ⟨w, hw, rfl⟩ := exec_next_performs hb hi hk h
      have again (row : Option Row) (column : Option Column) :=
        exec_of_passed (s := { s with cursorRow := row, cursorColumn := column }) hb hi hk hw
      cases hcell : cellOf i with
      | some cell => exact .inl fun row column => by rw [again, perform_overwrites_cache hb hcell]
      | none => exact .inr fun row column => by rw [again, perform_carries_cache hb hcell]

/-- Settles O24: the check, the cell and the events of a request do not depend on the settle time. -/
theorem historyDoesNotDependOnSettleTime : Obligations.HistoryDoesNotDependOnSettleTime := by
  intro s t settle h
  change step (s.withSettle settle) = .next (t.withSettle settle)
  cases step_stepped h with
  | idled hf hp => exact step_of_pending_nil (s := s.withSettle settle) hf hp
  | rejected req rest reason hf hp hd => exact step_of_decode_error (s := s.withSettle settle) ⟨hf, hp⟩ hd
  | executed req rest i hf hp hd ht =>
    rw [step_of_decode_ok (s := s.withSettle settle) (rest := rest) ⟨hf, hp⟩ hd]
    exact exec_withSettle ht settle

/-! ## The obligations: the command protocol -/

/-- Settles O29: its one byte is sent with its RS and with RW = 0. -/
theorem sendCommandWrites : Obligations.SendCommandWrites :=
  fun s w rs b hs => exec_command_of_ready (i := .sendCommand rs false b) hs (by simp) (by simp)
    (by simp [check_sendCommand]) (itemEvents_singleton ..) rfl

/-- The word of a read: RW is bit 8, RS is bit 9. -/
theorem encode_sendCommand_read (rs : Level) (b : Byte) :
    encode (.sendCommand rs true b) = (if rs then 0x2300 else 0x2100) ||| b.setWidth 16 := by
  cases rs <;> rfl

/-- Settles O30: the check finds the read. -/
theorem sendCommandReadRaisesReadNotSupported : Obligations.SendCommandReadRaisesReadNotSupported := by
  intro s rs b _ hp
  have hk : check s.phase (encode (.sendCommand rs true b)) = some .readNotSupported := by simp [check_sendCommand, hp]
  rw [exec_of_check_some hk, encode_sendCommand_read]
  rfl

theorem exec_init_emits (w : BusWidth) {s : State} (hs : AwaitingInit s) :
    exec (.init w) s = .next { s with
      phase := .ready
      busWidth := some w
      cursorRow := some s.cfg.initCursorRow
      cursorColumn := some s.cfg.initCursorColumn
      H := s.H ++ initEvents s.cfg w
      lvl := s.lvl.afterCommand w false s.cfg.cmdClear } := by
  rw [exec_init_of_uninit w hs.uninit, initialise_eq, State.emitAll, ← replay_initEvents]
  rfl

/-- Settles O31: the initialisation, with its events and levels written out. -/
theorem initInitialises : Obligations.InitInitialises :=
  fun _ hs => ⟨exec_init_emits .four hs, exec_init_emits .eight hs⟩

/-- Settles O33: the check finds the wrong phase. -/
theorem requestsOutOfSequenceRaise : Obligations.RequestsOutOfSequenceRaise := by
  refine ⟨fun i s hs hi => exec_of_uninit hi hs.uninit, fun w s _ hp => ?_⟩
  exact exec_of_check_some (by simp [check_init, hp])

/-! ## The obligations: the display session -/

theorem setAddressByte_eq_ofNat (r : Row) (c : Column) :
    setAddressByte r c = BitVec.ofNat 8 (0x80 + 0x40 * r.toNat + c.toNat) := by
  revert r c; decide

/-- Settles O36: the cell it names, and the set-address byte as a number. -/
theorem setCursorMovesTheCursor : Obligations.SetCursorMovesTheCursor := by
  intro s w r c hs
  rw [exec_setCursor_of_ready hs, setCursor_eq, setCursorEvents, emitAll_commandEvents, ← setAddressByte_eq_ofNat]
  rfl

/-- Settles O37: its one byte is sent with RS = 1. -/
theorem writeCharSendsData : Obligations.WriteCharSendsData :=
  fun s w b hs => exec_command_of_ready (i := .writeChar b) hs (by simp) (by simp) (by simp [check_writeChar])
    (itemEvents_singleton ..) rfl

/-- Settles O38: each is one instruction byte, and names no cell. -/
theorem oneByteRequestsSendTheirInstruction : Obligations.OneByteRequestsSendTheirInstruction := by
  intro s w hs sends
  have sends_of_one_item {i : Instr} {b : Byte} (hb : i ≠ .backspace) (hi : ∀ w, i ≠ .init w)
      (hk : check .ready (encode i) = none) (he : requestEvents s w i = itemEvents w [instructionItem b])
      (hcell : cellOf i = none) : exec i s = sends b :=
    exec_command_of_ready hs hb hi hk (he.trans (itemEvents_singleton ..)) hcell
  refine ⟨?_, ?_, ?_, ?_, ?_⟩ <;> exact sends_of_one_item (by simp) (by simp) (by decide) rfl rfl

/-- Settles O39: one blank from its cell. -/
theorem clearCharBlanksOneCell : Obligations.ClearCharBlanksOneCell := by
  intro s w r c hs
  have h := exec_blank_of_ready (i := .clearChar r c) hs (by simp) (by simp) (by simp [check_clearChar])
    (itemEvents_blankItems ..) rfl
  rwa [List.replicate_one, List.flatten_singleton] at h

/-- Settles O40: fifteen blanks from column 0. -/
theorem clearRowWritesFifteenSpaces : Obligations.ClearRowWritesFifteenSpaces :=
  fun s w r hs => exec_blank_of_ready (i := .clearRow r) hs (by simp) (by simp) (by simp [check_clearRow])
    (itemEvents_blankItems ..) rfl

theorem encode_clearSection_eq_ofNat (r : Row) (g e : Column) :
    encode (.clearSection r g e) = BitVec.ofNat 16 (0x8000 + 0x100 * r.toNat + 0x10 * g.toNat + e.toNat) := by
  revert r g e; decide +kernel

/-- Settles O41: the check finds a section whose begin is above its end. -/
theorem clearSectionWritesItsColumns : Obligations.ClearSectionWritesItsColumns := by
  intro s w r g e hs
  refine ⟨fun hge => ?_, fun hge => ?_⟩
  · have hk : check .ready (encode (.clearSection r g e)) = none := by
      simp [check_clearSection, BitVec.lt_def, hge]
    have h := exec_blank_of_ready (i := .clearSection r g e) hs (by simp) (by simp) hk (itemEvents_blankItems ..) rfl
    rwa [Nat.sub_add_comm hge] at h
  · have hk : check s.phase (encode (.clearSection r g e)) = some .invalidCoordinate := by
      simp [check_clearSection, hs.ready, BitVec.lt_def, hge]
    rw [exec_of_check_some hk, encode_clearSection_eq_ofNat]
    rfl

/-- Settles O42: one blank from the column to the left, where there is one. -/
theorem backspaceBlanksTheCellToTheLeft : Obligations.BackspaceBlanksTheCellToTheLeft := by
  intro s w r c hs hr hc
  have hk : check s.phase (encode .backspace) = none := by simp [check_backspace, hs.ready]
  refine ⟨fun h0 => exec_backspace_at_zero hk hr (h0 ▸ hc), fun c' hc' => ?_⟩
  have h0 : c ≠ 0 := by rintro rfl; simp at hc'
  have hleft : c - 1 = c' := by bv_omega
  rw [exec_backspace_of_passed hk hs.width hr hc, State.eraseLeft, if_neg h0, hleft, emitAll_blankEvents, ← hr,
    List.replicate_one, List.flatten_singleton]

/-! ## The obligations: repeated and equivalent requests -/

/-- Performed again, a request appends the same events, and changes nothing else. -/
theorem perform_perform {i : Instr} (hb : i ≠ .backspace) (s : State) (w : BusWidth) :
    (s.perform w i).perform w i = { s.perform w i with H := (s.perform w i).H ++ requestEvents s w i } := by
  have events : requestEvents (s.perform w i) w i = requestEvents s w i := requestEvents_congr hb (State.perform_cfg s w i) w
  have levels := replay_replay_self s.lvl (requestEvents s w i)
  rw [← State.perform_lvl] at levels
  rw [State.perform, events, State.emitAll, State.moveCursor_lvl, State.moveCursor_H, levels]
  rw [State.perform]
  cases cellOf i <;> rfl

/-- Settles O46: the events depend on the parameters alone, and repeated at once they change no level. -/
theorem requestsAreIdempotent : Obligations.RequestsAreIdempotent := by
  intro i s t hb hi h ht
  have hk := check_none_of_fault_none h ht
  obtain ⟨w, hw, rfl⟩ := exec_next_performs hb hi hk h
  have again := exec_of_passed (s := s.perform w i) hb hi (by simpa using hk) (by simpa using hw)
  rw [perform_perform hb] at again
  refine ⟨_, again, ?_, rfl, rfl, rfl, rfl, rfl, rfl⟩
  rw [newEvents_append, State.perform_H, newEvents_append]

theorem readyWith_setCursor {s : State} {w : BusWidth} (hs : ReadyWith s w) (r : Row) (c : Column) :
    ReadyWith (setCursor w r c s) w := by
  rw [setCursor_eq]; exact ⟨hs.notHalted, hs.ready, hs.width⟩

theorem exec_clearChar_of_ready {s : State} {w : BusWidth} (hs : ReadyWith s w) (r : Row) (c : Column) :
    exec (.clearChar r c) s = .next (blankFrom w r c 1 s) := by
  have hk : check s.phase (encode (.clearChar r c)) = none := by simp [check_clearChar, hs.ready]
  simp only [exec, execClearChar]
  rw [checked_of_none hk, withWidth_of_some hs.width]

theorem exec_writeChar_of_ready {s : State} {w : BusWidth} (hs : ReadyWith s w) (b : Byte) :
    exec (.writeChar b) s = .next (s.emitAll (commandEvents w true false b)) := by
  rw [writeCharSendsData s w b hs, emitAll_commandEvents]

theorem readyWith_emitAll {s : State} {w : BusWidth} (hs : ReadyWith s w) (evs : List Event) :
    ReadyWith (s.emitAll evs) w := ⟨hs.notHalted, hs.ready, hs.width⟩

/-- Settles O47: both sides run the same procedures. -/
theorem equivalentRequests : Obligations.EquivalentRequests := by
  refine ⟨fun s b hp => ?writeChar, fun s w r c hs => ?setCursor, fun s w r c hs => ?clearChar⟩
  case writeChar =>
    rw [exec_eq_checked (by simp) (by simp), exec_eq_checked (by simp) (by simp),
      checked_of_none (by simp [check_writeChar, hp]), checked_of_none (by simp [check_sendCommand, hp])]
    rfl
  case setCursor =>
    refine ⟨_, sendCommandWrites s w false _ hs, ?_⟩
    rw [exec_setCursor_of_ready hs, setCursor_eq, setCursorEvents, emitAll_commandEvents]
    rfl
  case clearChar =>
    have ha := readyWith_setCursor hs r c
    have hb := readyWith_emitAll ha (commandEvents w true false s.cfg.space)
    refine ⟨_, _, _, exec_setCursor_of_ready hs r c, exec_writeChar_of_ready ha _, exec_setCursor_of_ready hb r c, ?_⟩
    have hcfg : (setCursor w r c s).cfg = s.cfg := by rw [setCursor_eq]; rfl
    rw [exec_clearChar_of_ready hs, blankFrom, writeSpaces, writeSpaces, writeChar_eq, hcfg]

end Sys2Proof.Machine
end

section
/-! PROOFS. What the bus carries: the counts of a request's events, its latches, and write_string. -/

namespace Sys2Proof.Machine

/-! ## Counting the events of a byte -/

/-- The lines that a byte drives, in writing order. -/
def drivenLines : BusWidth → Byte → List (Line × Level)
  | .eight, b => byteLines b
  | .four, b => nibbleLines (highNibble b) ++ nibbleLines (lowNibble b)

theorem linesEvents_append (a b : List (Line × Level)) : linesEvents (a ++ b) = linesEvents a ++ linesEvents b :=
  List.flatMap_append

theorem countP_byteEvents (P : Event → Bool) (w : BusWidth) (b : Byte) :
    (byteEvents w b).countP P =
      (linesEvents (drivenLines w b)).countP P + pulsesPerByte w * pulseEvents.countP P := by
  cases w with
  | eight => simp [byteEvents, drivenLines, pulsesPerByte]
  | four => simp only [byteEvents, drivenLines, pulsesPerByte, linesEvents_append, List.countP_append]; omega

theorem linesEvents_cons (p : Line × Level) (ls : List (Line × Level)) :
    linesEvents (p :: ls) = driveEvents p.1 p.2 ++ linesEvents ls := rfl

/-- Each driven line is cleared once. -/
theorem countP_linesEvents_clears {P : Event → Bool} {ls : List (Line × Level)} (hclr : ∀ p ∈ ls, P (.clr p.1) = true)
    (hset : ∀ p ∈ ls, P (.set p.1) = false) : (linesEvents ls).countP P = ls.length := by
  induction ls with
  | nil => rfl
  | cons p ls ih =>
    obtain ⟨hc, hcs⟩ := List.forall_mem_cons.mp hclr
    obtain ⟨hs, hss⟩ := List.forall_mem_cons.mp hset
    have one : (driveEvents p.1 p.2).countP P = 1 := by cases h : p.2 <;> simp [driveEvents, hc, hs]
    rw [linesEvents_cons, List.countP_append, one, ih hcs hss, List.length_cons, Nat.add_comm]

/-- Each line driven high is set once. -/
theorem countP_linesEvents_sets {P : Event → Bool} {ls : List (Line × Level)} (hclr : ∀ p ∈ ls, P (.clr p.1) = false)
    (hset : ∀ p ∈ ls, P (.set p.1) = true) : (linesEvents ls).countP P = ls.countP (·.2) := by
  induction ls with
  | nil => rfl
  | cons p ls ih =>
    obtain ⟨hc, hcs⟩ := List.forall_mem_cons.mp hclr
    obtain ⟨hs, hss⟩ := List.forall_mem_cons.mp hset
    have one : (driveEvents p.1 p.2).countP P = if p.2 then 1 else 0 := by cases h : p.2 <;> simp [driveEvents, hc, hs]
    rw [linesEvents_cons, List.countP_append, one, ih hcs hss, List.countP_cons, Nat.add_comm]

theorem length_linesEvents (ls : List (Line × Level)) : (linesEvents ls).length = ls.length + ls.countP (·.2) := by
  induction ls with
  | nil => rfl
  | cons p ls ih =>
    have len : (driveEvents p.1 p.2).length = 1 + if p.2 then 1 else 0 := by cases h : p.2 <;> simp [driveEvents]
    rw [linesEvents_cons, List.length_append, len, ih, List.length_cons, List.countP_cons]
    omega

theorem length_drivenLines (w : BusWidth) (b : Byte) : (drivenLines w b).length = 8 := by
  cases w <;> rfl

/-- The lines driven high carry the byte's 1 bits. -/
theorem countP_drivenLines (w : BusWidth) (b : Byte) : (drivenLines w b).countP (·.2) = popcount b := by
  cases w <;> revert b <;> decide

theorem map_fst_drivenLines (w : BusWidth) (b : Byte) :
    (drivenLines w b).map Prod.fst =
      match w with
      | .eight => [.d7, .d6, .d5, .d4, .d3, .d2, .d1, .d0]
      | .four => [.d7, .d6, .d5, .d4, .d7, .d6, .d5, .d4] := by
  cases w <;> rfl

/-- Only data lines are driven. -/
theorem exists_byteLine_of_driven (w : BusWidth) (b : Byte) :
    ∀ p ∈ drivenLines w b, ∃ l ∈ byteLines 0, p.1 = l.1 := by
  intro p hp
  have hp : p.1 ∈ (drivenLines w b).map Prod.fst := List.mem_map_of_mem hp
  rw [map_fst_drivenLines] at hp
  generalize p.1 = l at hp
  cases w <;> revert l <;> decide

theorem popcount_le (b : Byte) : popcount b ≤ 8 := by
  simpa [popcount] using List.countP_le_length (l := List.range 8) (p := fun i => b.getLsbD i)

/-! ## Pulses, waits and lengths -/

theorem pulseCount_append (a b : List Event) : pulseCount (a ++ b) = pulseCount a + pulseCount b := List.count_append

/-- Events that spare E hold no pulse. -/
theorem pulseCount_of_spares {evs : List Event} (h : Spares .e evs) : pulseCount evs = 0 :=
  List.count_eq_zero.mpr fun hm => (h _ hm).2 rfl

/-- Two waits to a pulse (40_bus_encoder.md R81). -/
theorem waitCount_of_strobed {evs : List Event} (h : strobed evs = true) : waitCount evs = 2 * pulseCount evs := by
  unfold waitCount pulseCount
  fun_induction strobed evs with
  | case1 => rfl
  | case2 evs ih =>
    have ih := ih h
    simp at ih ⊢
    omega
  | case3 | case4 | case5 => simp at h
  | case6 l evs _ _ ih => simpa [List.count_cons] using ih h
  | case7 l evs hl ih => simpa [List.count_cons, show l ≠ .e from hl] using ih h

theorem pulseCount_byteEvents (w : BusWidth) (b : Byte) : pulseCount (byteEvents w b) = pulsesPerByte w := by
  have lines : Spares .e (linesEvents (drivenLines w b)) := by
    refine spares_linesEvents fun p hp => ?_
    obtain ⟨l, hl, h⟩ := exists_byteLine_of_driven w b p hp
    exact h ▸ byteLines_ne_e 0 l hl
  have count := countP_byteEvents (· == .clr .e) w b
  have none := pulseCount_of_spares lines
  simp only [pulseCount, List.count] at none ⊢
  rw [count, none, show pulseEvents.countP (· == .clr .e) = 1 from rfl]
  omega

theorem pulseCount_commandEvents (w : BusWidth) (rs rw : Level) (b : Byte) :
    pulseCount (commandEvents w rs rw b) = pulsesPerByte w := by
  rw [commandEvents, pulseCount_append, pulseCount_append, pulseCount_of_spares (spares_driveEvents rs (by decide)),
    pulseCount_of_spares (spares_driveEvents rw (by decide)), pulseCount_byteEvents]
  omega

theorem pulseCount_itemEvents (w : BusWidth) (items : List BusItem) :
    pulseCount (itemEvents w items) = items.length * pulsesPerByte w := by
  induction items with
  | nil => simp [pulseCount]
  | cons it items ih =>
    rw [itemEvents_cons, pulseCount_append, pulseCount_commandEvents, ih, List.length_cons, Nat.succ_mul, Nat.add_comm]

theorem strobed_itemEvents (w : BusWidth) (items : List BusItem) : strobed (itemEvents w items) = true := by
  induction items with
  | nil => rfl
  | cons it items ih => exact strobed_append (strobed_commandEvents ..) ih

theorem length_byteEvents (w : BusWidth) (b : Byte) :
    (byteEvents w b).length = 8 + popcount b + 4 * pulsesPerByte w := by
  have count := countP_byteEvents (fun _ => true) w b
  simp only [List.countP_true] at count
  rw [count, length_linesEvents, length_drivenLines, countP_drivenLines, show pulseEvents.length = 4 from rfl]
  omega

theorem length_byteEvents_le (w : BusWidth) (b : Byte) : (byteEvents w b).length ≤ 19 + 4 * pulsesPerByte w := by
  have := popcount_le b
  rw [length_byteEvents]
  omega

theorem length_commandEvents_le (w : BusWidth) (rs : Level) (b : Byte) :
    (commandEvents w rs false b).length ≤ 19 + 4 * pulsesPerByte w := by
  have bits := popcount_le b
  have mode : (driveEvents .rs rs).length ≤ 2 := by cases rs <;> decide
  simp only [commandEvents, List.length_append, length_byteEvents, show (driveEvents .rw false).length = 1 from rfl]
  omega

theorem length_itemEvents_le (w : BusWidth) {items : List BusItem} (h : ∀ it ∈ items, it.rw = false) :
    (itemEvents w items).length ≤ items.length * (19 + 4 * pulsesPerByte w) := by
  induction items with
  | nil => simp
  | cons it items ih =>
    obtain ⟨hit, hitems⟩ := List.forall_mem_cons.mp h
    have head := length_commandEvents_le w it.rs it.byte
    have tail := ih hitems
    rw [itemEvents_cons, List.length_append, List.length_cons, Nat.succ_mul, hit]
    omega

/-! ## The bytes of a request -/

theorem length_blankItems (cfg : Config) (r : Row) (c : Column) (n : Nat) : (blankItems cfg r c n).length = n + 2 := by
  simp [blankItems]

theorem rw_of_mem_blankItems {cfg : Config} {r : Row} {c : Column} {n : Nat} :
    ∀ it ∈ blankItems cfg r c n, it.rw = false := by
  intro it h
  simp only [blankItems, List.mem_cons, List.mem_append, List.mem_replicate, List.not_mem_nil, or_false] at h
  obtain rfl | ⟨-, rfl⟩ | rfl := h <;> rfl

/-- Every request but transmit, which leaves RW alone, sends its bytes with RW = 0. -/
theorem rw_of_mem_itemsOf {i : Instr} (hi : ∀ b, i ≠ .transmit b) (s : State) :
    ∀ it ∈ itemsOf s i, it.rw = false := by
  cases i with
  | transmit b => exact absurd rfl (hi b)
  | clearChar r c => exact rw_of_mem_blankItems
  | clearRow r => exact rw_of_mem_blankItems
  | clearSection r g e => exact rw_of_mem_blankItems
  | backspace =>
    simp only [itemsOf]
    split
    · split
      · simp
      · exact rw_of_mem_blankItems
    · simp
  | _ => simp [itemsOf, instructionItem, dataItem]

/-- The longest request is clear_section over 16 columns (70_reset_and_hazards.md section 4). -/
theorem length_itemsOf_le (s : State) (i : Instr) : (itemsOf s i).length ≤ 18 := by
  cases i with
  | clearSection r g e =>
    have := e.isLt
    simp only [itemsOf, length_blankItems]
    omega
  | clearChar r c => simp [itemsOf, length_blankItems]
  | clearRow r => simp [itemsOf, length_blankItems]
  | backspace =>
    simp only [itemsOf]
    split
    · split <;> simp [length_blankItems]
    · simp
  | _ => simp [itemsOf]

theorem requestEvents_eq_itemEvents {i : Instr} (hi : ∀ w, i ≠ .init w) (ht : ∀ b, i ≠ .transmit b) (s : State)
    (w : BusWidth) : requestEvents s w i = itemEvents w (itemsOf s i) := by
  cases i with
  | init w => exact absurd rfl (hi w)
  | transmit b => exact absurd rfl (ht b)
  | _ => rfl

theorem pulseCount_requestEvents {i : Instr} (hi : ∀ w, i ≠ .init w) (s : State) (w : BusWidth) :
    pulseCount (requestEvents s w i) = (itemsOf s i).length * pulsesPerByte w := by
  by_cases ht : ∃ b, i = .transmit b
  · obtain ⟨b, rfl⟩ := ht
    exact (pulseCount_byteEvents w b).trans (Nat.one_mul _).symm
  · rw [requestEvents_eq_itemEvents hi (not_exists.mp ht), pulseCount_itemEvents]

theorem strobed_requestEvents (s : State) (w : BusWidth) (i : Instr) : strobed (requestEvents s w i) = true := by
  cases i with
  | init width => exact strobed_initEvents s.cfg width
  | transmit b => exact strobed_byteEvents w b
  | _ => exact strobed_itemEvents w _

theorem length_requestEvents_le {i : Instr} (hi : ∀ w, i ≠ .init w) (s : State) (w : BusWidth) :
    (requestEvents s w i).length ≤ 18 * (19 + 4 * pulsesPerByte w) := by
  by_cases ht : ∃ b, i = .transmit b
  · obtain ⟨b, rfl⟩ := ht
    exact (length_byteEvents_le w b).trans (Nat.le_mul_of_pos_left _ (by decide))
  · have ht : ∀ b, i ≠ .transmit b := not_exists.mp ht
    rw [requestEvents_eq_itemEvents hi ht]
    exact (length_itemEvents_le w (rw_of_mem_itemsOf ht s)).trans (Nat.mul_le_mul_right _ (length_itemsOf_le s i))

/-- init's startup sequences, before its clear instruction (41_command_protocol.md section 3). -/
def rawEvents : BusWidth → List Event
  | .four => resetEvents ++ enable4Events
  | .eight => resetEvents

theorem initEvents_eq (cfg : Config) (w : BusWidth) :
    initEvents cfg w = rawEvents w ++ commandEvents w false false cfg.cmdClear := by
  cases w <;> rfl

theorem pulseCount_initEvents (s : State) (w v : BusWidth) : pulseCount (initEvents s.cfg w) = pulsesOf s v (.init w) := by
  rw [initEvents_eq, pulseCount_append, pulseCount_commandEvents]
  cases w <;> rfl

theorem length_initEvents_le (cfg : Config) (w : BusWidth) :
    (initEvents cfg w).length ≤ 18 * (19 + 4 * pulsesPerByte w) := by
  have raw : (rawEvents w).length ≤ 17 * (19 + 4 * pulsesPerByte w) := by cases w <;> decide
  have clear := length_commandEvents_le w false cfg.cmdClear
  rw [initEvents_eq, List.length_append]
  omega

theorem pulseCount_requestEvents_le {i : Instr} (hi : ∀ w, i ≠ .init w) (s : State) (w : BusWidth) :
    pulseCount (requestEvents s w i) ≤ 18 * pulsesPerByte w := by
  rw [pulseCount_requestEvents hi]
  exact Nat.mul_le_mul_right _ (length_itemsOf_le s i)

theorem pulseCount_initEvents_le (cfg : Config) (w : BusWidth) : pulseCount (initEvents cfg w) ≤ 18 * pulsesPerByte w := by
  rw [initEvents_eq, pulseCount_append, pulseCount_commandEvents]
  cases w <;> decide

/-! ## Latches of init -/

theorem latchesFrom_commandEvents (lv : Levels) (w : BusWidth) (rs rw : Level) (b : Byte) :
    latchesFrom lv (commandEvents w rs rw b) = latchesFrom ((lv.put .rs rs).put .rw rw) (byteEvents w b) := by
  simp only [commandEvents, latchesFrom_append, replay_append, replay_driveEvents]
  rw [latchesFrom_driveEvents _ _ _ (by decide), latchesFrom_driveEvents _ _ _ (by decide)]
  rfl

theorem latchesFrom_commandEvents_eight (lv : Levels) (rs rw : Level) (b : Byte) :
    latchesFrom lv (commandEvents .eight rs rw b) = [{ rs := rs, rw := rw, data := b }] := by
  rw [latchesFrom_commandEvents, latchesFrom_byteEvents_eight]
  rfl

theorem latchesFrom_commandEvents_four (lv : Levels) (rs rw : Level) (b : Byte) :
    latchesFrom lv (commandEvents .four rs rw b) =
      [{ rs := rs, rw := rw, data := highNibble b ++ lowNibble lv.dataByte },
       { rs := rs, rw := rw, data := lowNibble b ++ lowNibble lv.dataByte }] := by
  rw [latchesFrom_commandEvents, latchesFrom_byteEvents_four]
  rfl

theorem lowNibble_dataByte (lv : Levels) :
    lowNibble lv.dataByte = BitVec.ofBool lv.d3 ++ BitVec.ofBool lv.d2 ++ BitVec.ofBool lv.d1 ++ BitVec.ofBool lv.d0 := by
  obtain ⟨_, _, _, d7, d6, d5, d4, d3, d2, d1, d0⟩ := lv
  simp only [Levels.dataByte]
  revert d7 d6 d5 d4 d3 d2 d1 d0
  decide

theorem lowNibble_dataByte_replay (lv : Levels) {evs : List Event} (h : SparesLowLines evs) :
    lowNibble (replay lv evs).dataByte = lowNibble lv.dataByte := by
  obtain ⟨h3, h2, h1, h0⟩ := lowLevels_of_spares lv h
  rw [lowNibble_dataByte, lowNibble_dataByte, h3, h2, h1, h0]

/-- The latch of a raw nibble: RS = 0, the nibble on D7..D4, and RW and D3..D0 as they were. -/
def rawLatch (lv : Levels) (n : Nibble) : Latch := { rs := false, rw := lv.rw, data := n ++ lowNibble lv.dataByte }

/-- What a startup sequence drives before its pulses (R101, R102). -/
def startupLines (n : Nibble) : List Event := driveEvents .rs false ++ linesEvents (nibbleLines n)

theorem latchesFrom_startupLines (lv : Levels) (n : Nibble) : latchesFrom lv (startupLines n) = [] := by
  rw [startupLines, latchesFrom_append, latchesFrom_driveEvents _ _ _ (by decide),
    latchesFrom_linesEvents _ _ (nibbleLines_ne_e n), List.nil_append]

theorem latchOf_startupLines (lv : Levels) (n : Nibble) : latchOf (replay lv (startupLines n)) = rawLatch lv n := by
  rw [startupLines, replay_append, replay_driveEvents, latchOf_nibbleLines]
  rfl

theorem latchesFrom_pulse_append (lv : Levels) (evs : List Event) :
    latchesFrom lv (pulseEvents ++ evs) = latchOf lv :: latchesFrom { lv with e := false } evs := by
  rw [latchesFrom_append, latchesFrom_pulseEvents, replay_pulseEvents, List.singleton_append]

/-- Nothing changes between the three pulses of the handshake but E. -/
theorem latchesFrom_resetEvents (lv : Levels) :
    latchesFrom lv resetEvents = List.replicate 3 (rawLatch lv resetNibble) := by
  have events : resetEvents = startupLines resetNibble ++ (pulseEvents ++ (pulseEvents ++ (pulseEvents ++ []))) := rfl
  rw [events, latchesFrom_append, latchesFrom_startupLines, latchesFrom_pulse_append, latchesFrom_pulse_append,
    latchesFrom_pulse_append, ← latchOf_startupLines]
  rfl

theorem latchesFrom_enable4Events (lv : Levels) : latchesFrom lv enable4Events = [rawLatch lv enable4Nibble] := by
  have events : enable4Events = startupLines enable4Nibble ++ pulseEvents := rfl
  rw [events, latchesFrom_append, latchesFrom_startupLines, latchesFrom_pulseEvents, latchOf_startupLines]
  rfl

theorem sparesLowLines_rawEvents (w : BusWidth) : SparesLowLines (rawEvents w) := by
  unfold SparesLowLines Spares
  cases w <;> decide

/-- Neither RW nor D3..D0 move in the handshake. -/
theorem rawLatch_replay_resetEvents (lv : Levels) (n : Nibble) : rawLatch (replay lv resetEvents) n = rawLatch lv n := by
  have hrw : (replay lv resetEvents).rw = lv.rw := get_replay_of_spares lv (l := .rw) (by unfold Spares; decide)
  rw [rawLatch, hrw, lowNibble_dataByte_replay lv (evs := resetEvents) (sparesLowLines_rawEvents .eight), rawLatch]

/-- The nibbles that init's startup sequences latch (41_command_protocol.md R105). -/
def rawNibbles : BusWidth → List Nibble
  | .four => [resetNibble, resetNibble, resetNibble, enable4Nibble]
  | .eight => [resetNibble, resetNibble, resetNibble]

theorem latchesFrom_rawEvents (lv : Levels) (w : BusWidth) :
    latchesFrom lv (rawEvents w) = (rawNibbles w).map (rawLatch lv) := by
  cases w with
  | eight => exact latchesFrom_resetEvents lv
  | four =>
    rw [rawEvents, latchesFrom_append, latchesFrom_resetEvents, latchesFrom_enable4Events, rawLatch_replay_resetEvents]
    rfl

theorem length_latchesFrom_rawEvents (lv : Levels) (w : BusWidth) :
    (latchesFrom lv (rawEvents w)).length = rawLatchCount w := by
  rw [latchesFrom_rawEvents, List.length_map]
  cases w <;> rfl

theorem latchesFrom_initEvents (lv : Levels) (cfg : Config) (w : BusWidth) :
    latchesFrom lv (initEvents cfg w) = (rawNibbles w).map (rawLatch lv) ++
      latchesFrom (replay lv (rawEvents w)) (commandEvents w false false cfg.cmdClear) := by
  rw [initEvents_eq, latchesFrom_append, latchesFrom_rawEvents]

/-! ## Reading bytes back -/

theorem readBytes_commandEvents_append (lv : Levels) (w : BusWidth) (rs rw : Level) (b : Byte) (ls : List Latch) :
    readBytes w (latchesFrom lv (commandEvents w rs rw b) ++ ls) =
      { rs := rs, rw := rw, byte := b } :: readBytes w ls := by
  cases w with
  | eight => simp [latchesFrom_commandEvents_eight, readBytes]
  | four => simp [latchesFrom_commandEvents_four, readBytes, highNibble_append, nibbles_append]

theorem readBytes_itemEvents (lv : Levels) (w : BusWidth) (items : List BusItem) :
    readBytes w (latchesFrom lv (itemEvents w items)) = items := by
  induction items generalizing lv with
  | nil => exact readBytes_nil w
  | cons it items ih => rw [itemEvents_cons, latchesFrom_append, readBytes_commandEvents_append, ih]

theorem readBytes_requestEvents {i : Instr} (hi : ∀ w, i ≠ .init w) (s : State) (w : BusWidth) :
    readBytes w (latchesFrom s.lvl (requestEvents s w i)) = itemsOf s i := by
  by_cases ht : ∃ b, i = .transmit b
  · obtain ⟨b, rfl⟩ := ht
    exact readBytes_byteEvents s.lvl w b
  · rw [requestEvents_eq_itemEvents hi (not_exists.mp ht), readBytes_itemEvents]

/-! ## The table of pulses -/

theorem ne_init_of_ready {i : Instr} {s : State} (hp : s.phase = .ready) (hk : check s.phase (encode i) = none)
    (w : BusWidth) : i ≠ .init w := by
  rintro rfl
  cases (uninit_of_init_passed hk).symm.trans hp

/-- The pulses of R194's table are those of the bytes that a request which passes its check sends. -/
theorem pulsesOf_eq_of_passed {i : Instr} {s t : State} (hi : ∀ w, i ≠ .init w) (hk : check s.phase (encode i) = none)
    (h : exec i s = .next t) (w : BusWidth) : pulsesOf s w i = (itemsOf s i).length * pulsesPerByte w := by
  cases i with
  | init width => exact absurd rfl (hi width)
  | clearChar r c => simp [pulsesOf, itemsOf, length_blankItems]
  | clearRow r => simp [pulsesOf, itemsOf, length_blankItems]
  | clearSection r g e =>
    have hge : g.toNat ≤ e.toNat := (ready_of_clearSection hk).2
    simp only [pulsesOf, itemsOf, length_blankItems]
    congr 1
    omega
  | backspace =>
    obtain ⟨r, c, hr, hc, -⟩ := exec_backspace_next hk h
    simp only [pulsesOf, itemsOf, hr, hc, Option.some.injEq]
    split <;> simp [length_blankItems]
  | _ => simp [pulsesOf, itemsOf]

/-! ## write_string -/

/-- The state after the words of write_string are taken and performed. -/
def State.writeString (s : State) (w : BusWidth) (codes : List Byte) : State :=
  { s with pending := [], position := s.position + codes.length }.emitAll (itemEvents w (codes.map dataItem))

theorem writeString_nil {s : State} (w : BusWidth) (hp : s.pending = []) : s.writeString w [] = s := by
  rw [State.writeString, ← hp]
  exact State.emitAll_nil s

theorem step_writeChar {s : State} {w : BusWidth} {b : Byte} {rest : List Word} (hs : ReadyWith s w)
    (hp : s.pending = encode (.writeChar b) :: rest) :
    step s = .next (s.takeRequest.emitAll (commandEvents w true false b)) := by
  rw [step_of_decode_ok ⟨hs.notHalted, hp⟩ (decode_encode _)]
  exact exec_writeChar_of_ready (s := s.takeRequest) ⟨hs.notHalted, hs.ready, hs.width⟩ b

theorem run_writeString {s : State} {w : BusWidth} {codes : List Byte} (hs : ReadyWith s w)
    (hp : s.pending = codes.map fun b => encode (.writeChar b)) :
    Sys2Proof.core.run codes.length s = .next (s.writeString w codes) := by
  induction codes generalizing s with
  | nil => rw [writeString_nil w hp]; rfl
  | cons b codes ih =>
    rw [List.length_cons, run_succ_of_next (step_writeChar hs hp),
      ih (readyWith_emitAll (s := s.takeRequest) ⟨hs.notHalted, hs.ready, hs.width⟩ _) (by simp [hp])]
    simp only [State.writeString, List.map_cons, itemEvents_cons, List.length_cons, State.emitAll,
      State.takeRequest, replay_append, List.append_assoc, Nat.add_assoc, Nat.add_comm 1, dataItem]

theorem rs_replay_dataItems (lv : Levels) (w : BusWidth) {codes : List Byte} (h : codes ≠ []) :
    (replay lv (itemEvents w (codes.map dataItem))).rs = true := by
  obtain ⟨codes, b, rfl⟩ := (List.eq_nil_or_concat codes).resolve_left h
  rw [List.concat_eq_append, List.map_append, itemEvents_append, replay_append, List.map_singleton, itemEvents_singleton,
    dataItem, replay_commandEvents]
  cases w <;> rfl

/-! ## The obligations -/

/-- Settles O28: each of the eight driven lines is cleared once, and set for a 1 bit; the pulses are counted apart. -/
theorem transmitEventCounts : Obligations.TransmitEventCounts := by
  intro s w b hs
  have driven := exists_byteLine_of_driven w b
  refine ⟨_, exec_transmit_of_ready hs b, ?_⟩
  rw [newEvents_transmit, waitCount_of_strobed (strobed_byteEvents w b), pulseCount_byteEvents, countP_byteEvents,
    countP_byteEvents]
  refine ⟨rfl, rfl, ?clears, ?sets, length_byteEvents w b⟩
  case clears =>
    rw [countP_linesEvents_clears (by simpa using driven) (by simp), length_drivenLines]
    rfl
  case sets =>
    rw [countP_linesEvents_sets (by simp) (by simpa using driven), countP_drivenLines]
    rfl

/-- Settles O32: RW and D3..D0 do not move in the startup sequences. -/
theorem initLatches : Obligations.InitLatches := by
  intro s t w hs h low raw
  rw [exec_init_of_uninit w hs.uninit] at h
  cases h
  rw [newEvents_initialise, latchesFrom_initEvents]
  cases w with
  | eight => rw [latchesFrom_commandEvents_eight]; rfl
  | four =>
    rw [latchesFrom_commandEvents_four, lowNibble_dataByte_replay s.lvl (sparesLowLines_rawEvents .four)]
    rfl

/-- Settles O43: the bytes come back one by one, and init's raw latches stand in front. -/
theorem latchesReadBackAsTheBytesSent : Obligations.LatchesReadBackAsTheBytesSent := by
  refine ⟨fun i s t w hs h ht => ?performed, fun s t w hs h => ?init⟩
  case performed =>
    have hk := check_none_of_fault_none h ht
    rw [newEvents_of_passed hs hk h, readBytes_requestEvents (ne_init_of_ready hs.ready hk)]
  case init =>
    rw [exec_init_of_uninit w hs.uninit] at h
    cases h
    rw [newEvents_initialise, initEvents_eq, latchesFrom_append, List.drop_left' (length_latchesFrom_rawEvents ..),
      readBytes_commandEvents]
    rfl

/-- Settles O44: the bytes of a request give its pulses, and a strobed history has two waits to a pulse. -/
theorem pulsesAndTimeOfEachRequest : Obligations.PulsesAndTimeOfEachRequest := by
  intro i s t w hs h
  cases hk : check s.phase (encode i) with
  | some k =>
    refine ⟨fun ht => ?_, fun _ => newEvents_of_check_some hk h⟩
    cases hk.symm.trans (check_none_of_fault_none h ht)
  | none =>
    have hf : s.fault = none := hs.elim (·.notHalted) (·.1.notHalted)
    refine ⟨fun _ => ?_, fun ht => absurd ((exec_fault_of_check_none hk h).trans hf) ht⟩
    obtain ⟨hstrobed, hpulses⟩ : strobed (newEvents s.H t.H) = true ∧
        pulseCount (newEvents s.H t.H) = pulsesOf s w i := by
      obtain hs | ⟨hs, rfl⟩ := hs
      · have hi := ne_init_of_ready hs.ready hk
        rw [newEvents_of_passed hs hk h, pulseCount_requestEvents hi, pulsesOf_eq_of_passed hi hk h]
        exact ⟨strobed_requestEvents s w i, rfl⟩
      · rw [exec_init_of_uninit w hs.uninit] at h
        cases h
        rw [newEvents_initialise]
        exact ⟨strobed_initEvents s.cfg w, pulseCount_initEvents s w w⟩
    have hwaits : waitCount (newEvents s.H t.H) = 2 * pulsesOf s w i := by rw [waitCount_of_strobed hstrobed, hpulses]
    exact ⟨hpulses, hwaits, by rw [duration, hwaits]⟩

/-- Settles O45: a request sends at most 18 bytes. -/
theorem everyRequestIsBounded : Obligations.EveryRequestIsBounded := by
  intro i s t w hs h
  cases hk : check s.phase (encode i) with
  | some k => simp [newEvents_of_check_some hk h, pulseCount]
  | none =>
    obtain hs | ⟨hs, hw⟩ := hs
    · have hi := ne_init_of_ready hs.ready hk
      rw [newEvents_of_passed hs hk h]
      exact ⟨pulseCount_requestEvents_le hi s w, length_requestEvents_le hi s w⟩
    · obtain ⟨w', rfl⟩ : ∃ w', i = .init w' := by
        by_contra hi
        rw [hs.uninit, check_uninit_of_ne_init (not_exists.mp hi)] at hk
        cases hk
      obtain rfl := hw w' rfl
      rw [exec_init_of_uninit w' hs.uninit] at h
      cases h
      rw [newEvents_initialise]
      exact ⟨pulseCount_initEvents_le s.cfg w', length_initEvents_le s.cfg w'⟩

/-- Settles O50: by induction on the string: each step takes and performs one write_char. -/
theorem writeStringWritesItsBytesInOrder : Obligations.WriteStringWritesItsBytesInOrder := by
  intro s w codes hs hp
  have run := run_writeString (s := s.offer (codes.map fun b => encode (.writeChar b))) (codes := codes)
    ⟨hs.notHalted, hs.ready, hs.width⟩ (by simp [hp])
  refine ⟨_, ⟨run, hs.notHalted⟩, ?history, ?bytes, rfl, rfl, hs.ready, hs.width, rfl,
    fun h => rs_replay_dataItems s.lvl w h, ?empty⟩
  case history => exact congrArg (s.H ++ ·) (List.flatMap_map ..)
  case bytes =>
    change readBytes w (latchesFrom s.lvl (newEvents s.H (s.H ++ itemEvents w (codes.map dataItem)))) = _
    rw [newEvents_append, readBytes_itemEvents]
  case empty =>
    rintro rfl
    have offered : s.offer [] = s := by simp [State.offer]
    rw [List.map_nil, offered, writeString_nil w hp]

end Sys2Proof.Machine
end
